-- ==== Sys2Proof/Word.lean ====
section
/-! DEFINITION. The word types of RBFIFO-LT (00_scope.md R8, R13). -/

namespace Sys2Proof

/-- A datum: DATA_W = 8 bits (R8). -/
abbrev Byte := BitVec 8

/-- A command or response word: CMD_W = RSP_W = 16 bits (R8). -/
abbrev Word := BitVec 16

/-- A count: CNT_W = 12 bits, unsigned, 0..4095 (R8). -/
abbrev Cnt := BitVec 12

end Sys2Proof
end

