-- ==== Sys2Proof/Config.lean ====
section
/-! DEFINITION. What an implementation fixes (00_scope.md R7 to R12) and the free values the spec leaves open
(93_implementation_defined.md I5, I7, I8, I12, I13). -/

namespace Sys2Proof

/-- SYNC_MODEL (R11): whether each side sees the other's pointer through a lagging copy or at once. -/
inductive SyncModel where
  | lagged
  | immediate
  deriving DecidableEq, Repr, Inhabited

/-- The parameters of one implementation. They stand in the state as plain data that no step writes, so a statement
about every state is a statement about every implementation (log 1). -/
structure Config where
  /-- PTR_W (R8): the width of a pointer. -/
  ptrW : Nat
  /-- SYNC_MODEL (R11). -/
  syncModel : SyncModel
  /-- OVERRUN_COUNTER = present (R12). -/
  overrunCounter : Bool
  /-- SYNC_STAGES (R10); no rule of the model depends on it. -/
  syncStages : Nat
  deriving DecidableEq, Repr

/-- N = CAPACITY = 2^PTR_W, the number of byte slots (R7). -/
def Config.N (c : Config) : Nat := 2 ^ c.ptrW

/-- The parameters `State.reset` takes. DESIGN CHOICE (log 1): the spec leaves N and SYNC_STAGES open; SYNC_MODEL and
OVERRUN_COUNTER are the defaults of R11 and R12. -/
def Config.chosen : Config :=
  { ptrW := 2, syncModel := .lagged, overrunCounter := false, syncStages := 2 }

/-- One scheduled move of one agent (60_exceptions.md R195; the schedule lines of 30_encoding.md R87). -/
inductive Move where
  /-- PRODUCER: deliver the first byte of RXQ (R95). -/
  | produce
  /-- CONSUMER: take the first word of CMDQ (R96). -/
  | command
  /-- CONSUMER: one step of the READ or WRITE in progress (R142, R163). -/
  | seqStep
  /-- SYNC_W2R: advance head_sync by `j` (R110). -/
  | w2r (j : Nat)
  /-- SYNC_W2R catching up fully (R87, `S: W2R *`). -/
  | w2rAll
  /-- SYNC_R2W: advance tail_sync by `j` (R111). -/
  | r2w (j : Nat)
  /-- SYNC_R2W catching up fully (R87, `S: R2W *`). -/
  | r2wAll
  /-- TX: accept the offered byte (R162). -/
  | accept
  /-- HOST: drive rx_en (R197). -/
  | rxEn (on : Bool)
  /-- HOST: append received bytes to RXQ (R197). -/
  | receive (bytes : List Byte)
  /-- HOST: append command words to CMDQ (R197). -/
  | submit (words : List Word)
  /-- HOST: supply HOSTOUT, its length being OUT_LEN (R197). -/
  | supplyOut (buffer : List Byte)
  /-- HOST: supply HOSTSRC, its length being SRC_LEN (R197). -/
  | supplySrc (buffer : List Byte)
  deriving DecidableEq, Repr, Inhabited

/-- FREE VALUE (I7, I8, I12, I13; log 2): the move that comes next when the state's schedule names none, the k-th draw
of a run. Nothing constrains it. -/
opaque Config.freeMove : Nat → Move

/-- FREE VALUE (I5; R199): STUB_ERR, the value the close, seek and fstat stubs of the host adapter return (log 14). -/
opaque Config.stubErr : Int

end Sys2Proof
end

