-- ==== Sys2Proof/Syntax.lean ====
section
/-! DEFINITION. The operations a command word selects: one constructor per row of spec/opcode_table.json. -/

namespace Sys2Proof

/-- The operations of 30_encoding.md R71. Every operand has exactly the width of its field, so a term of this type holds
no operand out of range (R78). -/
inductive Instr where
  /-- NOP (R72, R100). -/
  | nop
  /-- INIT (R73, R101). -/
  | init
  /-- PUT of the byte `b` (R74, R102). -/
  | put (b : Byte)
  /-- GET (R75, R104). -/
  | get
  /-- READ with max_count `m` (R76, R140). -/
  | read (m : Cnt)
  /-- WRITE with count `c` (R77, R160). -/
  | write (c : Cnt)
  deriving DecidableEq, Repr

end Sys2Proof
end

