-- ==== Sys2Proof/WellFormed.lean ====
section
/-! DEFINITION. The checks on syntax and configuration: which port an operation is legal on (30_encoding.md R82), and
which parameters an implementation may have (00_scope.md R7, R10). -/

namespace Sys2Proof

/-- The two ports that carry command words (R82). -/
inductive Port where
  | producer
  | consumer
  deriving DecidableEq, Repr

/-- The only port on which an operation is legal (R71, R82). -/
def Instr.port : Instr → Port
  | .nop => .consumer
  | .init => .consumer
  | .put _ => .producer
  | .get => .consumer
  | .read _ => .consumer
  | .write _ => .consumer

/-- `i` is a well-formed command of port `p` (R82). -/
def Instr.wf (p : Port) (i : Instr) : Bool := i.port == p

/-- The parameters an implementation may have: PTR_W ≥ 1 (R7) and SYNC_STAGES ≥ 2 (R10). -/
def Config.wf (c : Config) : Bool := decide (1 ≤ c.ptrW) && decide (2 ≤ c.syncStages)

end Sys2Proof
end

