-- ==== Sys2Proof/Decode.lean ====
section
/-! DEFINITION. Decoding command words, total on each port (30_encoding.md R83), and encoding operations (R72 to R77). -/

namespace Sys2Proof

/-- Why a word spells no operation on a port (R79, R82). -/
inductive Reject where
  /-- op 0x6 to 0xF. -/
  | reservedOp
  /-- An operand bit the operation requires to be 0 is not. -/
  | nonzeroOperand
  /-- A PUT word on the consumer port. -/
  | producerOnly
  /-- A word other than PUT on the producer port. -/
  | notPut
  deriving DecidableEq, Repr

/-- What a port reads from a word: an operation, or ILLEGAL with its reason. -/
inductive Decoded where
  | instr (i : Instr)
  | illegal (r : Reject)
  deriving DecidableEq, Repr

/-- The operation selector `op = w[15:12]` (R70). -/
def opField (w : Word) : BitVec 4 := w.extractLsb' 12 4

/-- The operand `x = w[11:0]` (R70), unsigned (R78). -/
def xField (w : Word) : Cnt := w.extractLsb' 0 12

/-- An operation whose operand field must be 0x000 (R72, R73, R75, R79). -/
def noOperand (x : Cnt) (i : Instr) : Decoded :=
  if x = 0 then .instr i else .illegal .nonzeroOperand

/-- `decode_C` of R83, with a name for each reason to reject. -/
def decodeC (w : Word) : Decoded :=
  if opField w = 0x0 then noOperand (xField w) .nop
  else if opField w = 0x1 then noOperand (xField w) .init
  else if opField w = 0x2 then
    .illegal (if (xField w).extractLsb' 8 4 = 0 then .producerOnly else .nonzeroOperand)
  else if opField w = 0x3 then noOperand (xField w) .get
  else if opField w = 0x4 then .instr (.read (xField w))
  else if opField w = 0x5 then .instr (.write (xField w))
  else .illegal .reservedOp

/-- `decode_P` of R83. -/
def decodeP (w : Word) : Decoded :=
  if w.extractLsb' 8 8 = 0x20 then .instr (.put (w.extractLsb' 0 8)) else .illegal .notPut

/-- The decoder of a port (R83). -/
def decodeOn : Port → Word → Decoded
  | .consumer => decodeC
  | .producer => decodeP

/-- The word of an operation (R72 to R77). -/
def encode : Instr → Word
  | .nop => 0x0000
  | .init => 0x1000
  | .put b => 0x2000 ||| b.setWidth 16
  | .get => 0x3000
  | .read m => 0x4000 ||| m.setWidth 16
  | .write c => 0x5000 ||| c.setWidth 16

/-- The operation read from the table's numbering of a word's bits. A command word is one 16-bit value at its port, with
no byte order (20_memory.md R56), so bit k of the table is bit k of the word; the consumer port is asked first, and a
word it rejects is read as the producer port reads it. -/
def decodeTableWord (nbits w : Nat) : Option Instr :=
  if nbits ≤ 16 ∧ w < 2 ^ nbits then
    match decodeC (BitVec.ofNat 16 w) with
    | .instr i => some i
    | .illegal _ =>
      match decodeP (BitVec.ofNat 16 w) with
      | .instr i => some i
      | .illegal _ => none
  else none

end Sys2Proof
end

