-- ==== Sys2Proof/Machine/State.lean ====
section
/-! DEFINITION. The state of RBFIFO-LT (10_state.md R20, R33, R36, R37), its faults, and the state after reset (R39). -/

namespace Sys2Proof.Machine

/-- The model faults of 60_exceptions.md R190, a closed list. A faulting step sets the sticky mark in the state and
records it; the next `step` of the marked state answers with the mark (R35). Each is SAFE: the run stops where the spec
gives no value. -/
inductive Fault where
  /-- Raised by INIT while rx_en = 1 (R192). Safe: the spec's own fault. -/
  | initRace
  /-- Raised by READ or WRITE longer than the host's buffer (R193). Safe: the spec's own fault. -/
  | hostbufBounds
  /-- Raised by GET or a READ step that reads a slot no PUT has written (R191). Safe: the spec's own fault. -/
  | unwrittenSlot
  deriving DecidableEq, Repr

/-- Why a step would have no meaning. No meaning of this model is refused. -/
inductive Refusal where
  /-- Raised by an arm of `exec` whose instruction has no meaning yet. Safe: nothing is claimed of it. -/
  | notModelled (mnemonic : String)
  deriving DecidableEq, Repr

/-- `cseq` (R31). -/
inductive Cseq where
  | idle
  | read
  | write
  deriving DecidableEq, Repr

/-- The outcome a `Put` event records (R36). -/
inductive PutOutcome where
  | ok
  | full
  deriving DecidableEq, Repr

/-- Why a READ ended (41_line_reader.md R142). -/
inductive StopReason where
  | empty
  | cr
  | max
  deriving DecidableEq, Repr

/-- The events of the history (R36). -/
inductive Event where
  | put (b : Byte) (o : PutOutcome)
  | getOk (b : Byte)
  | getEmpty
  | readStart (m : Cnt)
  | readByte (bIn bOut : Byte)
  | readStop (r : StopReason) (n : Cnt)
  | writeStart (c : Cnt)
  | tx (b : Byte)
  | writeDone (c : Cnt)
  | init
  | syncW2R (j : Nat)
  | syncR2W (j : Nat)
  | illegal (p : Port) (w : Word)
  | resp (w : Word)
  | fault (f : Fault)
  deriving DecidableEq, Repr

/-- RBMEM (R21): the written slots as (index, byte) pairs, indices strictly rising. An unlisted slot is unwritten. -/
abbrev Memory := List Host.Cell

/-- The whole state: the block (R20), the host-side items (R33), the history (R36), the ghost counters (R37), and the
model's schedule (log 2). -/
structure State where
  /-- The implementation's parameters; no step writes them. -/
  cfg : Config
  /-- RBMEM (R21). -/
  mem : Memory
  /-- Next write position (R22). -/
  head : Nat
  /-- Next read position (R23). -/
  tail : Nat
  /-- The read side's copy of `head` (R24); under IMMEDIATE nothing reads it. -/
  headSync : Nat
  /-- The write side's copy of `tail` (R25); under IMMEDIATE nothing reads it. -/
  tailSync : Nat
  /-- The consumer sequencer (R31). -/
  cseq : Cseq
  /-- max_count of the READ in progress (R31). -/
  rdMax : Cnt
  /-- Bytes the READ in progress has appended (R31). -/
  rdCnt : Cnt
  /-- count of the WRITE in progress (R31). -/
  wrTotal : Cnt
  /-- Next source index of the WRITE in progress (R31). -/
  wrIdx : Cnt
  /-- A byte is offered and not yet accepted (R31). -/
  txValid : Bool
  /-- The offered byte (R31). -/
  txData : Byte
  /-- Dropped receive bytes (R34), counted only if OVERRUN_COUNTER = present. -/
  ovrCnt : BitVec 16
  /-- The sticky fault mark (R35). -/
  fault : Option Fault
  /-- The receive enable, an input (R32). -/
  rxEn : Bool
  /-- Received bytes not yet delivered (R33). -/
  rxq : List Byte
  /-- Command words for the consumer port (R33). -/
  cmdq : List Word
  /-- Response words returned (R33). -/
  respq : List Word
  /-- HOSTOUT; OUT_LEN is its length (R33, 20_memory.md R52). -/
  hostOut : List Byte
  /-- HOSTSRC; SRC_LEN is its length (R33, 20_memory.md R53). -/
  hostSrc : List Byte
  /-- Bytes the transmit collaborator accepted (R33, 20_memory.md R54). -/
  txLog : List Byte
  /-- The event history, oldest first (R36). -/
  history : List Event
  /-- H: successful PUTs since the last INIT (R37). -/
  ghostH : Nat
  /-- T: successful removals since the last INIT (R37). -/
  ghostT : Nat
  /-- Hs: the synchronised count of H (R37). -/
  ghostHs : Nat
  /-- Ts: the synchronised count of T (R37). -/
  ghostTs : Nat
  /-- MODEL's own: the moves that come next, first first (log 2). -/
  schedule : List Move
  /-- MODEL's own: how many free moves have been drawn (log 2). -/
  draws : Nat
  deriving DecidableEq, Repr

/-- The state just after the power-on reset (R39, 70_reset_and_hazards.md R220) of an implementation with parameters `c`,
with nothing at the host (log 9). -/
def State.resetFor (c : Config) : State where
  cfg := c
  mem := []
  head := 0
  tail := 0
  headSync := 0
  tailSync := 0
  cseq := .idle
  rdMax := 0
  rdCnt := 0
  wrTotal := 0
  wrIdx := 0
  txValid := false
  txData := 0
  ovrCnt := 0
  fault := none
  rxEn := false
  rxq := []
  cmdq := []
  respq := []
  hostOut := []
  hostSrc := []
  txLog := []
  history := []
  ghostH := 0
  ghostT := 0
  ghostHs := 0
  ghostTs := 0
  schedule := []
  draws := 0

/-- The clean entry state (70_reset_and_hazards.md R238): reset, with the host's items as a claim gives them. -/
def State.cleanEntry (c : Config) (rxq : List Byte) (cmdq : List Word) (out src : List Byte) (sched : List Move) :
    State :=
  { State.resetFor c with rxq := rxq, cmdq := cmdq, hostOut := out, hostSrc := src, schedule := sched }

/-- The machine right after reset, with the parameters `Config.chosen` (log 1). -/
def State.reset : State := State.resetFor Config.chosen

end Sys2Proof.Machine
end

