-- ==== Sys2Proof/Machine/Operands.lean ====
section
/-! DEFINITION. Values: index arithmetic modulo N (00_scope.md R13), response words (30_encoding.md R80), the terminator
(00_scope.md R9). -/

namespace Sys2Proof.Machine

/-- `inc(p) = (p + 1) mod N` (R13). -/
def inc (c : Config) (p : Nat) : Nat := (p + 1) % c.N

/-- `dist(a, b) = (b − a) mod N`, the number of `inc` steps from `a` to `b` (R13); the remainder is the mathematical one,
in 0..N−1, so `a` is first taken modulo N. -/
def ptrDist (c : Config) (a b : Nat) : Nat := (b + (c.N - a % c.N)) % c.N

/-- `zext_12(b)`: the value field of a GET response (R81). -/
def zext12 (b : Byte) : Cnt := b.setWidth 12

/-- The terminator byte, carriage return (R9). -/
def CR : Byte := 0x0D

/-- Its replacement, line feed (R9). -/
def LF : Byte := 0x0A

/-- The byte a READ appends for a removed byte (41_line_reader.md R142): all 8 bits are compared (NS19). -/
def crToLf (b : Byte) : Byte := if b = CR then LF else b

/-- The status of a response (30_encoding.md R80, 60_exceptions.md R181). -/
inductive Status where
  | ok
  | full
  | empty
  | illegal
  deriving DecidableEq, Repr

/-- The `st` code of a status (R80). -/
def statusCode : Status → BitVec 2
  | .ok => 0b00
  | .full => 0b01
  | .empty => 0b10
  | .illegal => 0b11

/-- The response word {st, 0b00, val} (R80). -/
def responseWord (st : Status) (val : Cnt) : Word := statusCode st ++ (0b00 : BitVec 2) ++ val

end Sys2Proof.Machine
end

