-- ==== Sys2Proof/Machine/Flags.lean ====
section
/-! DEFINITION. The status values, each computed from the state at the start of a step and none of them stored
(10_state.md R26 to R28, R41). -/

namespace Sys2Proof.Machine

/-- The read side's view of `head`: `head_sync`, read as `head` under IMMEDIATE (R24). -/
def headView (s : State) : Nat :=
  match s.cfg.syncModel with
  | .lagged => s.headSync
  | .immediate => s.head

/-- The write side's view of `tail`: `tail_sync`, read as `tail` under IMMEDIATE (R25). -/
def tailView (s : State) : Nat :=
  match s.cfg.syncModel with
  | .lagged => s.tailSync
  | .immediate => s.tail

/-- Hs, which is H under IMMEDIATE (40_ring_buffer.md R120). -/
def ghostHsView (s : State) : Nat :=
  match s.cfg.syncModel with
  | .lagged => s.ghostHs
  | .immediate => s.ghostH

/-- Ts, which is T under IMMEDIATE (R120). -/
def ghostTsView (s : State) : Nat :=
  match s.cfg.syncModel with
  | .lagged => s.ghostTs
  | .immediate => s.ghostT

/-- `empty_r = (tail == head_sync)` (R26). -/
def emptyR (s : State) : Bool := s.tail == headView s

/-- `full_w = (inc(head) == tail_sync)` (R27). -/
def fullW (s : State) : Bool := inc s.cfg s.head == tailView s

/-- `true_empty = (head == tail)` (R28). -/
def trueEmpty (s : State) : Bool := s.head == s.tail

/-- `true_full = (inc(head) == tail)` (R28). -/
def trueFull (s : State) : Bool := inc s.cfg s.head == s.tail

/-- `busy = (cseq ≠ IDLE)` (R41). -/
def busy (s : State) : Bool := s.cseq != .idle

/-- Settled: `head_sync = head` and `tail_sync = tail` (00_scope.md R19); always so under IMMEDIATE. -/
def settled (s : State) : Bool := headView s == s.head && tailView s == s.tail

/-- The producer cannot step and the consumer sequencer is IDLE (00_scope.md R19). -/
def quiescent (s : State) : Bool := !s.rxEn && s.cseq == .idle

/-- What the host may observe of the state: the levels on the block's output signals that the state alone determines
(30_encoding.md R85), and the live predicates. DESIGN CHOICE (log 26): R28 calls `true_empty` and `true_full` outputs the
host may observe, while R30, R41, R85 and R197 list the outputs without them; the model follows R28 and has both. -/
structure Outputs where
  fullW : Bool
  /-- Absent unless OVERRUN_COUNTER = present. -/
  ovrCnt : Option (BitVec 16)
  cmdReady : Bool
  outIdx : Cnt
  srcIdx : Cnt
  txValid : Bool
  txData : Byte
  emptyR : Bool
  busy : Bool
  /-- By R28 alone (log 26). -/
  trueEmpty : Bool
  /-- By R28 alone (log 26). -/
  trueFull : Bool
  deriving DecidableEq, Repr

/-- Observing the outputs (R28, R41, R85) is a function of the state and changes nothing. -/
def outputs (s : State) : Outputs where
  fullW := fullW s
  ovrCnt := if s.cfg.overrunCounter then some s.ovrCnt else none
  cmdReady := s.cseq == .idle
  outIdx := s.rdCnt
  srcIdx := s.wrIdx
  txValid := s.txValid
  txData := s.txData
  emptyR := emptyR s
  busy := busy s
  trueEmpty := trueEmpty s
  trueFull := trueFull s

end Sys2Proof.Machine
end

