-- ==== Sys2Proof/Machine/Ops.lean ====
section
/-! DEFINITION. The shared operations: the one-byte accesses of the address spaces (20_memory.md R50 to R53), events,
responses, the fault mark (60_exceptions.md R190), and the removal that GET and READ share (40_ring_buffer.md R104). -/

namespace Sys2Proof.Machine

/-- `MemRead(RBMEM, a, 1)`: `none` where the slot is unwritten (R21). -/
def Memory.read : Memory → Nat → Option Byte
  | [], _ => none
  | (x, v) :: rest, a => if a = x then some v else Memory.read rest a

/-- `MemWrite(RBMEM, a, 1, v)`, keeping the indices strictly rising. -/
def Memory.write : Memory → Nat → Byte → Memory
  | [], a, v => [(a, v)]
  | (x, w) :: rest, a, v =>
    if a < x then (a, v) :: (x, w) :: rest
    else if a = x then (a, v) :: rest
    else (x, w) :: Memory.write rest a v

/-- The canonical form: indices strictly rising. No entry can equal what an unlisted slot reads as, which is no byte. -/
def Memory.wf (m : Memory) : Prop := m.Pairwise (fun p q => p.1 < q.1)

/-- Every listed index is a slot of RBMEM, 0..N−1 (20_memory.md R51). -/
def Memory.below (m : Memory) (n : Nat) : Prop := ∀ p ∈ m, p.1 < n

/-- `record(e)` (00_scope.md R15, 10_state.md R36). -/
def record (e : Event) (s : State) : State := { s with history := s.history ++ [e] }

/-- `respond(st, val)` (00_scope.md R15). DEDUCED (log 5): it also records `Resp`, the event kind of R36 that no
pseudocode names. -/
def respond (st : Status) (val : Cnt) (s : State) : State :=
  { s with
    respq := s.respq ++ [responseWord st val]
    history := s.history ++ [.resp (responseWord st val)] }

/-- `fault(F)` (00_scope.md R15, 60_exceptions.md R190): the sticky mark and its event; the faulting step writes nothing
else. The block has no trap, no saved state and no return (R180, R201). -/
def raiseFault (f : Fault) (s : State) : State :=
  { s with fault := some f, history := s.history ++ [.fault f] }

/-- The ILLEGAL outcome of a word on the consumer port (30_encoding.md R79, 60_exceptions.md R184). -/
def illegalC (w : Word) (s : State) : State := respond .illegal 0 (record (.illegal .consumer w) s)

/-- A word other than PUT on the producer port: recorded, and nothing else (30_encoding.md R82). -/
def illegalP (w : Word) (s : State) : State := record (.illegal .producer w) s

/-- What an attempt to remove the byte at `tail` gives. -/
inductive Removal where
  /-- `empty_r = 1`. -/
  | empty
  /-- The slot is unwritten (R191). -/
  | unwritten
  /-- The byte, and the state with `tail` advanced. -/
  | byte (b : Byte) (s : State)
  deriving DecidableEq, Repr

/-- The removal of GET and of a READ step (R104, 41_line_reader.md R142): the read of `mem[tail]` and the advance of
`tail` in one step (20_memory.md R65). -/
def removeByte (s : State) : Removal :=
  if emptyR s then .empty
  else
    match Memory.read s.mem s.tail with
    | none => .unwritten
    | some b => .byte b { s with tail := inc s.cfg s.tail, ghostT := s.ghostT + 1 }

/-- `MemWrite(HOSTOUT, rd_cnt, 1, v); rd_cnt <- rd_cnt + 1` (R142); `none` where HOSTOUT has no such index (log 8). -/
def appendOut (v : Byte) (s : State) : Option State :=
  if s.rdCnt.toNat < s.hostOut.length then
    some { s with hostOut := s.hostOut.set s.rdCnt.toNat v, rdCnt := s.rdCnt + 1 }
  else none

/-- `emit_tx(b)` (00_scope.md R15). -/
def emitTx (b : Byte) (s : State) : State := { s with txData := b, txValid := true }

end Sys2Proof.Machine
end

