-- ==== Sys2Proof/Machine/LineReader.lean ====
section
/-! DEFINITION. READ: its command step (41_line_reader.md R140) and its loop steps (R142). -/

namespace Sys2Proof.Machine

/-- READ m (R140). -/
def execRead (m : Cnt) (s : State) : Host.Outcome State Fault Refusal :=
  if s.hostOut.length < m.toNat then .next (raiseFault .hostbufBounds s)
  else if m = 0 then .next (respond .ok 0 (record (.readStop .max 0) (record (.readStart 0) s)))
  else .next (record (.readStart m) { s with rdMax := m, rdCnt := 0, cseq := .read })

/-- `finish(reason)` (R142): the response with the count, in the step that ends the loop (R143). -/
def finishRead (r : StopReason) (s : State) : State :=
  { respond .ok s.rdCnt (record (.readStop r s.rdCnt) s) with cseq := .idle, rdMax := 0, rdCnt := 0 }

/-- What a READ step does after it has appended the removed byte `b` (R142): stop at CR, stop at the bound, or go on. -/
def afterByte (b : Byte) (s : State) : State :=
  if b = CR then finishRead .cr s
  else if s.rdCnt = s.rdMax then finishRead .max s
  else s

/-- One iteration of the loop (R142). -/
def readStep (s : State) : State :=
  match removeByte s with
  | .empty => finishRead .empty s
  | .unwritten => raiseFault .unwrittenSlot s
  | .byte b t =>
    match appendOut (crToLf b) t with
    | none => raiseFault .hostbufBounds s
    | some u => afterByte b (record (.readByte b (crToLf b)) u)

end Sys2Proof.Machine
end

