-- ==== Sys2Proof/Machine/RingBuffer.lean ====
section
/-! DEFINITION. The ring-buffer operations NOP, INIT, PUT and GET (40_ring_buffer.md R100 to R104). -/

namespace Sys2Proof.Machine

/-- NOP (R100). -/
def execNop (s : State) : Host.Outcome State Fault Refusal := .next (respond .ok 0 s)

/-- What INIT resets (R101, 70_reset_and_hazards.md R221): pointers, copies, slots, ovr_cnt and ghost counters. -/
def initBuffer (s : State) : State :=
  { s with
    head := 0, tail := 0, headSync := 0, tailSync := 0
    mem := []
    ovrCnt := if s.cfg.overrunCounter then 0 else s.ovrCnt
    ghostH := 0, ghostT := 0, ghostHs := 0, ghostTs := 0 }

/-- INIT (R101); with the receive path enabled, the fault INIT_RACE (60_exceptions.md R192). -/
def execInit (s : State) : Host.Outcome State Fault Refusal :=
  if s.rxEn then .next (raiseFault .initRace s)
  else .next (respond .ok 0 (record .init (initBuffer s)))

/-- PUT (R102): FULL drops the byte and counts it if the counter is present (60_exceptions.md R200). -/
def execPut (b : Byte) (s : State) : Host.Outcome State Fault Refusal :=
  if fullW s then
    .next (record (.put b .full)
      { s with ovrCnt := if s.cfg.overrunCounter then s.ovrCnt + 1 else s.ovrCnt })
  else
    .next (record (.put b .ok)
      { s with mem := Memory.write s.mem s.head b, head := inc s.cfg s.head, ghostH := s.ghostH + 1 })

/-- GET (R104). -/
def execGet (s : State) : Host.Outcome State Fault Refusal :=
  match removeByte s with
  | .empty => .next (respond .empty 0 (record .getEmpty s))
  | .unwritten => .next (raiseFault .unwrittenSlot s)
  | .byte b t => .next (respond .ok (zext12 b) (record (.getOk b) t))

end Sys2Proof.Machine
end

