-- ==== Sys2Proof/Machine/Writer.lean ====
section
/-! DEFINITION. WRITE: its command step (42_writer.md R160), its offer and finish steps (R163), and the acceptance of the
transmit collaborator (R162). -/

namespace Sys2Proof.Machine

/-- WRITE c (R160). -/
def execWrite (c : Cnt) (s : State) : Host.Outcome State Fault Refusal :=
  if s.hostSrc.length < c.toNat then .next (raiseFault .hostbufBounds s)
  else if c = 0 then .next (respond .ok 0 (record (.writeDone 0) (record (.writeStart 0) s)))
  else .next (record (.writeStart c) { s with wrTotal := c, wrIdx := 0, cseq := .write })

/-- The finishing step of a WRITE (R163, R164). -/
def finishWrite (s : State) : State :=
  { respond .ok s.wrTotal (record (.writeDone s.wrTotal) s) with cseq := .idle, wrTotal := 0, wrIdx := 0 }

/-- One step of a WRITE (R163): offer the next byte, or finish. HOSTSRC is read here, at the step that offers the byte
(R161); an index HOSTSRC does not have faults (log 8). -/
def writeStep (s : State) : State :=
  if s.wrIdx < s.wrTotal then
    match s.hostSrc[s.wrIdx.toNat]? with
    | none => raiseFault .hostbufBounds s
    | some b => { emitTx b s with wrIdx := s.wrIdx + 1 }
  else finishWrite s

/-- TX ACCEPT (R162). -/
def txAccept (s : State) : State :=
  record (.tx s.txData) { s with txLog := s.txLog ++ [s.txData], txValid := false }

end Sys2Proof.Machine
end

