-- ==== Sys2Proof/Machine/Sync.lean ====
section
/-! DEFINITION. The synchroniser steps (40_ring_buffer.md R110, R111). -/

namespace Sys2Proof.Machine

/-- How far `head_sync` may move: `dist(head_sync, head)` (R110). -/
def w2rDist (s : State) : Nat := ptrDist s.cfg s.headSync s.head

/-- How far `tail_sync` may move: `dist(tail_sync, tail)` (R111). -/
def r2wDist (s : State) : Nat := ptrDist s.cfg s.tailSync s.tail

/-- SYNC_W2R is enabled and may choose `j` (R110): only under LAGGED, only while the copy lags, `1 ≤ j ≤ k`. -/
def canW2R (j : Nat) (s : State) : Bool :=
  s.cfg.syncModel == .lagged && s.headSync != s.head && decide (1 ≤ j) && decide (j ≤ w2rDist s)

/-- SYNC_R2W is enabled and may choose `j` (R111). -/
def canR2W (j : Nat) (s : State) : Bool :=
  s.cfg.syncModel == .lagged && s.tailSync != s.tail && decide (1 ≤ j) && decide (j ≤ r2wDist s)

/-- SYNC_W2R with the choice `j` (R110). -/
def syncW2R (j : Nat) (s : State) : State :=
  record (.syncW2R j) { s with headSync := (s.headSync + j) % s.cfg.N, ghostHs := s.ghostHs + j }

/-- SYNC_R2W with the choice `j` (R111). -/
def syncR2W (j : Nat) (s : State) : State :=
  record (.syncR2W j) { s with tailSync := (s.tailSync + j) % s.cfg.N, ghostTs := s.ghostTs + j }

end Sys2Proof.Machine
end

