-- ==== Sys2Proof/Machine/Agents.lean ====
section
/-! DEFINITION. The agents: when each has a step and what the step does (60_exceptions.md R195, R197), and which move
comes next. -/

namespace Sys2Proof.Machine

/-- A word on the consumer port (40_ring_buffer.md R96): decode, then the operation or ILLEGAL. -/
def consumerWord (w : Word) (s : State) : Host.Outcome State Fault Refusal :=
  match decodeC w with
  | .instr i => exec i s
  | .illegal _ => .next (illegalC w s)

/-- A word on the producer port (30_encoding.md R82). -/
def producerWord (w : Word) (s : State) : Host.Outcome State Fault Refusal :=
  match decodeP w with
  | .instr i => exec i s
  | .illegal _ => .next (illegalP w s)

/-- The word a received byte is spelt as on the producer port, `0x2000 | rx_data` (30_encoding.md R84). -/
def rxWord (b : Byte) : Word := 0x2000 ||| b.setWidth 16

/-- PRODUCER (R95): take the first byte of RXQ. -/
def producerStep (s : State) : Host.Outcome State Fault Refusal :=
  match s.rxq with
  | [] => .next s
  | b :: rest => producerWord (rxWord b) { s with rxq := rest }

/-- CONSUMER taking a command (R96): the first word of CMDQ, which a faulting command has taken too (log 24). -/
def commandStep (s : State) : Host.Outcome State Fault Refusal :=
  match s.cmdq with
  | [] => .next s
  | w :: rest => consumerWord w { s with cmdq := rest }

/-- CONSUMER's step of the READ or WRITE in progress (41_line_reader.md R142, 42_writer.md R163). -/
def sequencerStep (s : State) : State :=
  match s.cseq with
  | .idle => s
  | .read => readStep s
  | .write => writeStep s

/-- The sequencer has a step (R142, R163): always in READ, and in WRITE while no byte is waiting for acceptance. -/
def canSeqStep (s : State) : Bool :=
  match s.cseq with
  | .idle => false
  | .read => true
  | .write => !s.txValid

/-- The agent of a move has that step in `s`. No agent has a step in a state with the fault mark (10_state.md R35), and
the host has no move that touches HOSTOUT during a READ or HOSTSRC during a WRITE (R197). -/
def canStep (m : Move) (s : State) : Bool :=
  s.fault == none &&
  match m with
  | .produce => s.rxEn && s.rxq != []
  | .command => s.cseq == .idle && s.cmdq != []
  | .seqStep => canSeqStep s
  | .w2r j => canW2R j s
  | .w2rAll => canW2R (w2rDist s) s
  | .r2w j => canR2W j s
  | .r2wAll => canR2W (r2wDist s) s
  | .accept => s.txValid
  | .rxEn _ => true
  | .receive _ => true
  | .submit _ => true
  | .supplyOut _ => s.cseq != .read
  | .supplySrc _ => s.cseq != .write

/-- What an enabled move does. -/
def effect (m : Move) (s : State) : Host.Outcome State Fault Refusal :=
  match m with
  | .produce => producerStep s
  | .command => commandStep s
  | .seqStep => .next (sequencerStep s)
  | .w2r j => .next (syncW2R j s)
  | .w2rAll => .next (syncW2R (w2rDist s) s)
  | .r2w j => .next (syncR2W j s)
  | .r2wAll => .next (syncR2W (r2wDist s) s)
  | .accept => .next (txAccept s)
  | .rxEn on => .next { s with rxEn := on }
  | .receive bytes => .next { s with rxq := s.rxq ++ bytes }
  | .submit words => .next { s with cmdq := s.cmdq ++ words }
  | .supplyOut buffer => .next { s with hostOut := buffer }
  | .supplySrc buffer => .next { s with hostSrc := buffer }

/-- One scheduled move. DESIGN CHOICE (log 3): where its agent has no such step, the move passes and nothing changes. -/
def perform (m : Move) (s : State) : Host.Outcome State Fault Refusal :=
  if canStep m s then effect m s else .next s

/-- The move that comes next (log 2): the first of the schedule, or a free value where the schedule is empty. -/
def nextMove (s : State) : Move :=
  match s.schedule with
  | m :: _ => m
  | [] => Config.freeMove s.draws

/-- The state with that move taken off the schedule, or drawn. -/
def takeMove (s : State) : State :=
  match s.schedule with
  | _ :: rest => { s with schedule := rest }
  | [] => { s with draws := s.draws + 1 }

/-- One step of the machine (60_exceptions.md R195). A state with the fault mark has no step: it answers the mark
(10_state.md R35, log 4). -/
def scheduledStep (s : State) : Host.Outcome State Fault Refusal :=
  match s.fault with
  | some f => .fault f
  | none => perform (nextMove s) (takeMove s)

/-- A word put where the consumer takes its next command, with the consumer moving next. -/
def withCommand (w : Word) (s : State) : State :=
  { s with fault := none, cseq := .idle, cmdq := w :: s.cmdq, schedule := .command :: s.schedule }

/-- A received byte put where the producer takes its next one, with the producer enabled and moving next. -/
def withReceived (b : Byte) (s : State) : State :=
  { s with fault := none, rxEn := true, rxq := b :: s.rxq, schedule := .produce :: s.schedule }

/-- The command word with bits `w` presented on its port: a PUT word on the producer port, any other on the consumer's
(log 10). -/
def presentWord (s : State) (w : Nat) : State :=
  match decodeP (BitVec.ofNat 16 w) with
  | .instr _ => withReceived (BitVec.ofNat 8 w) s
  | .illegal _ => withCommand (BitVec.ofNat 16 w) s

end Sys2Proof.Machine
end

