-- ==== Sys2Proof/Machine/Step.lean ====
section
/-! DEFINITION. The step of the machine, and placing the word the next step runs. -/

namespace Sys2Proof.Machine

/-- One step of one agent (60_exceptions.md R195). -/
def step (s : State) : Host.Outcome State Fault Refusal := scheduledStep s

/-- `s` with the command word of bits `w` where the next step takes it (log 10). Every command word is 16 bits
(30_encoding.md R70), so `nbits` decides nothing. -/
def State.withFetchWord (s : State) (_nbits w : Nat) : State := presentWord s w

end Sys2Proof.Machine
end

