-- ==== Sys2Proof/Machine/Gray.lean ====
section
/-! DEFINITION. The Gray-code crossing, the physical form of the pointer copies (40_ring_buffer.md R112, 10_state.md R38).
The state holds every pointer in binary; no step uses these functions. -/

namespace Sys2Proof.Machine

/-- `gray(p) = p ^ (p >> 1)` over PTR_W bits (R112). -/
def gray {w : Nat} (p : BitVec w) : BitVec w := p ^^^ (p >>> 1)

/-- The bits of `bin(g)` from bit `i + k − 1` down to bit `i`, given those above, as the loop of R112 makes them: bit `i`
is the bit above it xor `g[i]`, and the bit above the top one counts as 0. -/
def binBit {w : Nat} (g : BitVec w) : Nat → Nat → Bool
  | 0, _ => false
  | k + 1, i => binBit g k (i + 1) ^^ g.getLsbD i

/-- `bin(g)` (R112). -/
def bin {w : Nat} (g : BitVec w) : BitVec w := BitVec.ofFnLE fun i : Fin w => binBit g (w - i) i

end Sys2Proof.Machine
end

