-- ==== Sys2Proof/Safety.lean ====
section
/-! DEFINITION. The terms claims use: the end of a run, what the history says of a run, and the invariants of the machine.
Each invariant is a property of one state; a claim says that a step keeps it. -/

namespace Sys2Proof.Machine

/-- A run has ended (70_reset_and_hazards.md R237). -/
def ended (s : State) : Bool :=
  s.fault == none && s.cseq == .idle && !s.txValid && s.cmdq == [] && (s.rxq == [] || !s.rxEn) && settled s

/-- The consumer waits for the transmit collaborator; a run that stays so is a hang (42_writer.md R166). -/
def waitsForTx (s : State) : Bool := s.fault == none && s.cseq == .write && s.txValid

/-- Whatever takes steps (00_scope.md R19, 60_exceptions.md R195). -/
inductive Agent where
  | producer
  | consumer
  | syncW2R
  | syncR2W
  | tx
  | host
  deriving DecidableEq, Repr

/-- The agent whose step a move is (R195; 30_encoding.md R87). -/
def agentOf : Move → Agent
  | .produce => .producer
  | .command => .consumer
  | .seqStep => .consumer
  | .w2r _ => .syncW2R
  | .w2rAll => .syncW2R
  | .r2w _ => .syncR2W
  | .r2wAll => .syncR2W
  | .accept => .tx
  | .rxEn _ => .host
  | .receive _ => .host
  | .submit _ => .host
  | .supplyOut _ => .host
  | .supplySrc _ => .host

/-- The move is a step of the block's agents PRODUCER, CONSUMER, SYNC_W2R, SYNC_R2W or of TX, not of the HOST (R237). -/
def ofBlock (m : Move) : Bool := agentOf m != .host

/-- The agent has a step in `s`. -/
def agentCanStep (a : Agent) (s : State) : Prop := ∃ m, agentOf m = a ∧ canStep m s = true

/-- An infinite run: the machine takes step after step, and `ms k` is the move scheduled for the step from `r k`. A step
answers a next state only where no fault is marked, so no state of an infinite run carries the mark (10_state.md R35). -/
def Run (ms : Nat → Move) (r : Nat → State) : Prop :=
  ∀ k, step { r k with schedule := [ms k] } = .next (r (k + 1))

/-- The agent is weakly fair in the run: if from some point on it always has a step, it takes one later
(70_reset_and_hazards.md R236). DEDUCED (log 13): fairness is the agent's, not each choice of `j`'s. -/
def WeaklyFair (a : Agent) (ms : Nat → Move) (r : Nat → State) : Prop :=
  ∀ k, (∀ i, k ≤ i → agentCanStep a (r i)) → ∃ i, k ≤ i ∧ agentOf (ms i) = a ∧ canStep (ms i) (r i) = true

/-- A run the fairness assumption admits: the synchronisers are weakly fair, and nothing is assumed of PRODUCER, CONSUMER,
TX or HOST (R236, 00_scope.md R6). Under IMMEDIATE the synchronisers never have a step and every run is fair. -/
structure FairRun (ms : Nat → Move) (r : Nat → State) : Prop where
  run : Run ms r
  w2r : WeaklyFair .syncW2R ms r
  r2w : WeaklyFair .syncR2W ms r

/-- How many INITs the history records. -/
def initCount (s : State) : Nat := s.history.count .init

/-- The state without the model's own two fields of log 2. -/
def unscheduled (s : State) : State := { s with schedule := [], draws := 0 }

/-- How one event changes the bytes put since the last INIT. -/
def putsStep (acc : List Byte) : Event → List Byte
  | .init => []
  | .put b .ok => acc ++ [b]
  | _ => acc

/-- The bytes of the successful PUTs since the last INIT, oldest first (10_state.md R36, R37). -/
def putsSinceInit (h : List Event) : List Byte := h.foldl putsStep []

/-- How one event changes the bytes removed since the last INIT. -/
def removedStep (acc : List Byte) : Event → List Byte
  | .init => []
  | .getOk b => acc ++ [b]
  | .readByte b _ => acc ++ [b]
  | _ => acc

/-- The bytes removed by GET and READ since the last INIT, oldest first, as they were in the buffer. -/
def removedSinceInit (h : List Event) : List Byte := h.foldl removedStep []

/-- How one event changes the log of the last READ. -/
def readLogStep (acc : List (Byte × Byte)) : Event → List (Byte × Byte)
  | .readStart _ => []
  | .readByte b o => acc ++ [(b, o)]
  | _ => acc

/-- The bytes the last READ removed, each with the byte it wrote to HOSTOUT (41_line_reader.md R145). -/
def lastReadLog (h : List Event) : List (Byte × Byte) := h.foldl readLogStep []

/-- How one event changes the bytes accepted since the last WRITE started. -/
def txStep (acc : List Byte) : Event → List Byte
  | .writeStart _ => []
  | .tx b => acc ++ [b]
  | _ => acc

/-- The bytes accepted by TX since the last WRITE started. -/
def txSinceWrite (h : List Event) : List Byte := h.foldl txStep []

/-- The response an event records. -/
def eventResponse : Event → Option Word
  | .resp w => some w
  | _ => none

/-- The byte an event records as transmitted. -/
def eventTransmitted : Event → Option Byte
  | .tx b => some b
  | _ => none

/-- Every response the history records. -/
def responsesOf (h : List Event) : List Word := h.filterMap eventResponse

/-- Every byte the history records as transmitted. -/
def transmittedOf (h : List Event) : List Byte := h.filterMap eventTransmitted

/-- The stored bytes in order: the slots from `tail` (inclusive) to `head` (exclusive), mod N (40_ring_buffer.md R125). -/
def storedBytes (s : State) : List Byte :=
  (List.range (ptrDist s.cfg s.tail s.head)).filterMap fun i => Memory.read s.mem ((s.tail + i) % s.cfg.N)

/-- The line a READ of at most `m` bytes takes from `xs`, as it was stored: up to and with the first CR (R145, R146). -/
def takeLine : Nat → List Byte → List Byte
  | 0, _ => []
  | _ + 1, [] => []
  | m + 1, x :: xs => if x = CR then [x] else x :: takeLine m xs

/-- RBMEM is in its canonical form and lists slots 0..N−1 only (20_memory.md R51). -/
structure MemoryOk (s : State) : Prop where
  wf : Memory.wf s.mem
  below : Memory.below s.mem s.cfg.N

/-- The pointer order invariant (40_ring_buffer.md R120), with the relation of pointers and ghost counters
(10_state.md R37) and the parameters an implementation may have (00_scope.md R7). -/
structure PointerOrder (s : State) : Prop where
  cfg : s.cfg.wf = true
  head : s.head = s.ghostH % s.cfg.N
  tail : s.tail = s.ghostT % s.cfg.N
  headView : headView s = ghostHsView s % s.cfg.N
  tailView : tailView s = ghostTsView s % s.cfg.N
  tsT : ghostTsView s ≤ s.ghostT
  tHs : s.ghostT ≤ ghostHsView s
  hsH : ghostHsView s ≤ s.ghostH
  hTs : s.ghostH ≤ ghostTsView s + s.cfg.N - 1

/-- The FIFO law (40_ring_buffer.md R124, R125): removals return the bytes of the PUTs in order, and the bytes not yet
removed stand in their slots. -/
structure FifoOrder (s : State) : Prop where
  puts : (putsSinceInit s.history).length = s.ghostH
  removed : removedSinceInit s.history = (putsSinceInit s.history).take s.ghostT
  stored : ∀ k, s.ghostT ≤ k → k < s.ghostH →
    Memory.read s.mem (k % s.cfg.N) = (putsSinceInit s.history)[k]?

/-- The sequencer's registers agree with what it is doing (10_state.md R31; R140, R142, R160, R163). -/
structure SequencerOk (s : State) : Prop where
  idle : s.cseq = .idle → s.rdMax = 0 ∧ s.rdCnt = 0 ∧ s.wrTotal = 0 ∧ s.wrIdx = 0 ∧ s.txValid = false
  read : s.cseq = .read →
    s.rdCnt < s.rdMax ∧ s.rdMax.toNat ≤ s.hostOut.length ∧ s.wrTotal = 0 ∧ s.wrIdx = 0 ∧ s.txValid = false
  write : s.cseq = .write →
    s.wrIdx ≤ s.wrTotal ∧ 0 < s.wrTotal ∧ s.wrTotal.toNat ≤ s.hostSrc.length ∧ s.rdMax = 0 ∧ s.rdCnt = 0 ∧
      (s.txValid = true → 0 < s.wrIdx)

/-- The translation law of the last READ, complete or in progress (41_line_reader.md R145): every byte written is the byte
removed, but a CR becomes LF and is the last; a READ in progress has met no CR, has counted its bytes, and finds them at
the front of HOSTOUT (R142). -/
structure ReadLogOk (s : State) : Prop where
  translated : ∀ p ∈ lastReadLog s.history, p.2 = crToLf p.1
  noCR : ∀ p ∈ (lastReadLog s.history).dropLast, p.1 ≠ CR
  inProgress : s.cseq = .read →
    (lastReadLog s.history).length = s.rdCnt.toNat ∧
      (∀ p ∈ lastReadLog s.history, p.1 ≠ CR) ∧
      s.hostOut.take s.rdCnt.toNat = (lastReadLog s.history).map Prod.snd

/-- The bytes of a WRITE in progress, accepted or offered, are the first `wr_idx` bytes of HOSTSRC in order
(42_writer.md R163, R164). -/
def WriteLogOk (s : State) : Prop :=
  s.cseq = .write →
    txSinceWrite s.history ++ (if s.txValid then [s.txData] else []) = s.hostSrc.take s.wrIdx.toNat

/-- RESPQ and TXLOG are the responses and the transmitted bytes of the history, in order. -/
structure LogsMatch (s : State) : Prop where
  responses : s.respq = responsesOf s.history
  transmitted : s.txLog = transmittedOf s.history

/-- Every response word has bits 13:12 zero and a status other than FULL (30_encoding.md R80, R81). -/
def ResponsesOk (s : State) : Prop :=
  ∀ w ∈ s.respq, w.extractLsb' 12 2 = 0 ∧ w.extractLsb' 14 2 ≠ statusCode .full

/-- Nothing counts overruns where the option is absent (60_exceptions.md R200). -/
def OverrunOk (s : State) : Prop := s.cfg.overrunCounter = false → s.ovrCnt = 0

/-- Operations executed one after the other, with no step of another agent between them. -/
def execAll : List Instr → State → Host.Outcome State Fault Refusal
  | [], s => .next s
  | i :: rest, s =>
    match exec i s with
    | .next t => execAll rest t
    | .fault f => .fault f
    | .refused r => .refused r

/-- Scheduled moves performed one after the other. -/
def performAll : List Move → State → Host.Outcome State Fault Refusal
  | [], s => .next s
  | m :: rest, s =>
    match perform m s with
    | .next t => performAll rest t
    | .fault f => .fault f
    | .refused r => .refused r

/-- The event is not one of the synchronisers'. -/
def notSyncEvent : Event → Bool
  | .syncW2R _ => false
  | .syncR2W _ => false
  | _ => true

/-- What a state of a LAGGED implementation is in the IMMEDIATE one with the same parameters (40_ring_buffer.md R113):
the copies, their counts and their events are gone. -/
def asImmediate (s : State) : State :=
  { s with
    cfg := { s.cfg with syncModel := .immediate }
    headSync := 0, tailSync := 0, ghostHs := 0, ghostTs := 0
    history := s.history.filter notSyncEvent }

end Sys2Proof.Machine
end

