-- ==== Sys2Proof/Certificates/Slice0/Obligations.lean ====
section
/-! DEFINITION. The statements for the provers. Where a statement gives the whole next state it does so up to the event
history, of which it names what the rule records (the Resp events of log 5 come after). -/

open Sys2Proof Sys2Proof.Machine

/-! ## Encoding -/

/-- R70 to R79, 95_test_vectors.md L2.1: words written out from the encodings, on both ports. -/
def Obligations.SampleWordsDecode : Prop :=
  decodeC 0b0000000000000000 = .instr .nop ∧
  decodeC 0b0001000000000000 = .instr .init ∧
  decodeP 0b0010000001000001 = .instr (.put 0x41) ∧
  decodeC 0b0011000000000000 = .instr .get ∧
  decodeC 0b0100000000001010 = .instr (.read 10) ∧
  decodeC 0b0101111111111111 = .instr (.write 4095) ∧
  decodeC 0b0000100000000000 = .illegal .nonzeroOperand ∧
  decodeC 0b0010000001000001 = .illegal .producerOnly ∧
  decodeC 0b0110000000000000 = .illegal .reservedOp ∧
  decodeP 0b0010000100000000 = .illegal .notPut

/-- R72 to R77, R83: on its own port, the word of every operation decodes to it, whatever its operand. -/
def Obligations.DecodeOfEncodeIsTheInstruction : Prop :=
  ∀ i : Instr, decodeOn i.port (encode i) = .instr i

/-- R83, R90: a word that decodes to an operation is that operation's one word, and on that operation's port. -/
def Obligations.EncodeOfDecodeIsTheWord : Prop :=
  ∀ (p : Port) (w : Word) (i : Instr), decodeOn p w = .instr i → encode i = w ∧ i.wf p = true

/-- R71, R79: the consumer port accepts exactly the words of the opcode table's consumer rows, by match and mask; the
producer port exactly those of the PUT row. -/
def Obligations.PortsAcceptExactlyTheTableWords : Prop :=
  ∀ w : Word,
    ((∃ i, decodeC w = .instr i) ↔
      w &&& 0xFFFF = 0x0000 ∨ w &&& 0xFFFF = 0x1000 ∨ w &&& 0xFFFF = 0x3000 ∨
        w &&& 0xF000 = 0x4000 ∨ w &&& 0xF000 = 0x5000) ∧
    ((∃ i, decodeP w = .instr i) ↔ w &&& 0xFF00 = 0x2000)

/-- R79, R184: op 6 to F, a nonzero operand of NOP, INIT or GET, and every other op-2 word are ILLEGAL on the consumer
port; an ILLEGAL word records Illegal(C, w), responds 0xC000 and changes nothing else. -/
def Obligations.IllegalConsumerWordOnlyAnswers : Prop :=
  (∀ (op : BitVec 4) (x : Cnt),
    (6 ≤ op ∨ ((op = 0 ∨ op = 1 ∨ op = 3) ∧ x ≠ 0) ∨ (op = 2 ∧ x.extractLsb' 8 4 ≠ 0)) →
      ∃ r, decodeC (op ++ x) = .illegal r) ∧
  ∀ (w : Word) (r : Reject) (s : State), decodeC w = .illegal r →
    ∃ t, consumerWord w s = .next t ∧ s.history ++ [.illegal .consumer w] <+: t.history ∧
      { t with history := s.history } = { s with respq := s.respq ++ [0xC000] }

/-- R82: each port carries its own operations; a PUT word on the consumer port is ILLEGAL; any other word on the producer
port is recorded, changes nothing else and has no response. -/
def Obligations.PortsCarryTheirOwnOperations : Prop :=
  (∀ (w : Word) (i : Instr), decodeP w = .instr i → ∃ b, i = .put b) ∧
  (∀ (w : Word) (i : Instr), decodeC w = .instr i → ∀ b, i ≠ .put b) ∧
  (∀ b : Byte, decodeP (0x20#8 ++ b) = .instr (.put b) ∧ ∃ r, decodeC (0x20#8 ++ b) = .illegal r) ∧
  ∀ (w : Word) (s : State), w.extractLsb' 8 8 ≠ 0x20 →
    producerWord w s = .next { s with history := s.history ++ [.illegal .producer w] }

/-! ## The operations -/

/-- R100: NOP is 0x0000 only, any other op 0 word is ILLEGAL; it answers OK and leaves the state, and so the flags, as they were. -/
def Obligations.NopAnswersAndChangesNothing : Prop :=
  decodeC 0x0000 = .instr .nop ∧
  (∀ x : Cnt, x ≠ 0 → ∃ r, decodeC (0x0#4 ++ x) = .illegal r) ∧
  ∀ s : State, ∃ t, exec .nop s = .next t ∧ s.history <+: t.history ∧
    { t with history := s.history } = { s with respq := s.respq ++ [0x0000] } ∧
    emptyR t = emptyR s ∧ fullW t = fullW s

/-- R101, R192; R79 for the other words of its op: INIT with the receive path disabled zeroes pointers, copies and ghost counters, leaves every slot
unwritten, clears ovr_cnt where it is present, records Init and responds OK; with it enabled, it only faults INIT_RACE. -/
def Obligations.InitResetsTheBuffer : Prop :=
  decodeC 0x1000 = .instr .init ∧
  (∀ x : Cnt, x ≠ 0 → ∃ r, decodeC (0x1#4 ++ x) = .illegal r) ∧
  (∀ s : State, s.rxEn = true →
    exec .init s = .next { s with fault := some .initRace, history := s.history ++ [.fault .initRace] }) ∧
  ∀ s : State, s.rxEn = false →
    ∃ t, exec .init s = .next t ∧ s.history ++ [.init] <+: t.history ∧
      (∀ a, Memory.read t.mem a = none) ∧
      { t with history := s.history, mem := s.mem } =
        { s with
          head := 0, tail := 0, headSync := 0, tailSync := 0
          ovrCnt := if s.cfg.overrunCounter then 0 else s.ovrCnt
          ghostH := 0, ghostT := 0, ghostHs := 0, ghostTs := 0
          respq := s.respq ++ [0x0000] } ∧
      emptyR t = true ∧ (s.cfg.wf = true → fullW t = false)

/-- R102: PUT of a full buffer drops the byte, records Put(b, FULL) and counts it where the counter is present; otherwise
it stores the byte at slot head, and no other slot changes, advances head and records Put(b, OK). No response. -/
def Obligations.PutStoresOrDrops : Prop :=
  (∀ b : Byte, decodeP (0x2000 ||| b.setWidth 16) = .instr (.put b)) ∧
  (∀ (b : Byte) (s : State), (s.head + 1) % s.cfg.N = tailView s →
    exec (.put b) s = .next
      { s with
        ovrCnt := if s.cfg.overrunCounter then s.ovrCnt + 1 else s.ovrCnt
        history := s.history ++ [.put b .full] }) ∧
  ∀ (b : Byte) (s : State), (s.head + 1) % s.cfg.N ≠ tailView s →
    ∃ t, exec (.put b) s = .next t ∧
      { t with mem := s.mem } =
        { s with
          head := (s.head + 1) % s.cfg.N, ghostH := s.ghostH + 1
          history := s.history ++ [.put b .ok] } ∧
      Memory.read t.mem s.head = some b ∧
      (∀ a, a ≠ s.head → Memory.read t.mem a = Memory.read s.mem a) ∧
      (s.cfg.syncModel = .lagged → emptyR t = emptyR s)

/-- R104: GET of a buffer the read side sees empty answers EMPTY; otherwise it answers the byte at slot tail, whatever its
value, and advances tail, or faults UNWRITTEN_SLOT where the slot is unwritten. Memory is never written. -/
def Obligations.GetRemovesOrReportsEmpty : Prop :=
  decodeC 0x3000 = .instr .get ∧
  (∀ s : State, s.tail = headView s →
    ∃ t, exec .get s = .next t ∧ s.history ++ [.getEmpty] <+: t.history ∧
      { t with history := s.history } = { s with respq := s.respq ++ [0x8000] }) ∧
  (∀ s : State, s.tail ≠ headView s → Memory.read s.mem s.tail = none →
    exec .get s = .next { s with fault := some .unwrittenSlot, history := s.history ++ [.fault .unwrittenSlot] }) ∧
  ∀ (s : State) (b : Byte), s.tail ≠ headView s → Memory.read s.mem s.tail = some b →
    ∃ t, exec .get s = .next t ∧ s.history ++ [.getOk b] <+: t.history ∧
      { t with history := s.history } =
        { s with
          tail := (s.tail + 1) % s.cfg.N, ghostT := s.ghostT + 1
          respq := s.respq ++ [b.setWidth 16] } ∧
      (s.cfg.syncModel = .lagged → fullW t = fullW s)

/-- R140: READ m faults where HOSTOUT is shorter than m, ends at once where m = 0, and otherwise starts the loop. -/
def Obligations.ReadStarts : Prop :=
  (∀ m : Cnt, decodeC (0x4000 ||| m.setWidth 16) = .instr (.read m)) ∧
  (∀ (m : Cnt) (s : State), s.hostOut.length < m.toNat →
    exec (.read m) s = .next { s with fault := some .hostbufBounds, history := s.history ++ [.fault .hostbufBounds] }) ∧
  (∀ s : State, ∃ t, exec (.read 0) s = .next t ∧
    s.history ++ [.readStart 0, .readStop .max 0] <+: t.history ∧
    { t with history := s.history } = { s with respq := s.respq ++ [0x0000] }) ∧
  ∀ (m : Cnt) (s : State), m.toNat ≤ s.hostOut.length → m ≠ 0 →
    exec (.read m) s = .next
      { s with rdMax := m, rdCnt := 0, cseq := .read, history := s.history ++ [.readStart m] } ∧
    busy { s with rdMax := m, rdCnt := 0, cseq := .read, history := s.history ++ [.readStart m] } = true

/-- R142: a READ in progress has a step exactly while no fault is marked; one iteration of the loop: empty ends it; a CR is removed, written as LF and ends it; any other byte is
removed and written unchanged, and ends it exactly at the bound. A READ in progress always has room for its next byte. -/
def Obligations.ReadStepDrainsTranslatesAndStops : Prop :=
  (∀ s : State, s.cseq = .read → (canStep .seqStep s = true ↔ s.fault = none)) ∧
  (∀ s : State, SequencerOk s → s.cseq = .read → s.rdCnt < s.rdMax ∧ s.rdCnt.toNat < s.hostOut.length) ∧
  ∀ s : State, s.fault = none → s.cseq = .read →
    (s.tail = headView s →
      ∃ t, perform .seqStep s = .next t ∧ s.history ++ [.readStop .empty s.rdCnt] <+: t.history ∧
        { t with history := s.history } =
          { s with respq := s.respq ++ [s.rdCnt.setWidth 16], cseq := .idle, rdMax := 0, rdCnt := 0 }) ∧
    (s.tail ≠ headView s → Memory.read s.mem s.tail = none →
      perform .seqStep s =
        .next { s with fault := some .unwrittenSlot, history := s.history ++ [.fault .unwrittenSlot] }) ∧
    (s.tail ≠ headView s → Memory.read s.mem s.tail = some 0x0D → s.rdCnt.toNat < s.hostOut.length →
      ∃ t, perform .seqStep s = .next t ∧
        s.history ++ [.readByte 0x0D 0x0A, .readStop .cr (s.rdCnt + 1)] <+: t.history ∧
        { t with history := s.history } =
          { s with
            tail := (s.tail + 1) % s.cfg.N, ghostT := s.ghostT + 1
            hostOut := s.hostOut.set s.rdCnt.toNat 0x0A
            respq := s.respq ++ [(s.rdCnt + 1).setWidth 16], cseq := .idle, rdMax := 0, rdCnt := 0 }) ∧
    (∀ b : Byte, s.tail ≠ headView s → Memory.read s.mem s.tail = some b → b ≠ 0x0D →
      s.rdCnt.toNat < s.hostOut.length →
      (s.rdCnt + 1 = s.rdMax →
        ∃ t, perform .seqStep s = .next t ∧
          s.history ++ [.readByte b b, .readStop .max (s.rdCnt + 1)] <+: t.history ∧
          { t with history := s.history } =
            { s with
              tail := (s.tail + 1) % s.cfg.N, ghostT := s.ghostT + 1
              hostOut := s.hostOut.set s.rdCnt.toNat b
              respq := s.respq ++ [(s.rdCnt + 1).setWidth 16], cseq := .idle, rdMax := 0, rdCnt := 0 }) ∧
      (s.rdCnt + 1 ≠ s.rdMax →
        perform .seqStep s = .next
          { s with
            tail := (s.tail + 1) % s.cfg.N, ghostT := s.ghostT + 1
            hostOut := s.hostOut.set s.rdCnt.toNat b, rdCnt := s.rdCnt + 1
            history := s.history ++ [.readByte b b] }))

/-- R148: a READ with m > 0 on a buffer the read side sees empty takes one step, answers 0 and removes and writes nothing. -/
def Obligations.ReadOfEmptyBufferReturnsZero : Prop :=
  ∀ (m : Cnt) (s : State), s.fault = none → m ≠ 0 → m.toNat ≤ s.hostOut.length → s.tail = headView s →
    ∃ t u, exec (.read m) s = .next t ∧ perform .seqStep t = .next u ∧
      { u with history := s.history } =
        { s with respq := s.respq ++ [0x0000], cseq := .idle, rdMax := 0, rdCnt := 0 }

/-- R160: WRITE c faults where HOSTSRC is shorter than c, ends at once where c = 0, and otherwise starts. -/
def Obligations.WriteStarts : Prop :=
  (∀ c : Cnt, decodeC (0x5000 ||| c.setWidth 16) = .instr (.write c)) ∧
  (∀ (c : Cnt) (s : State), s.hostSrc.length < c.toNat →
    exec (.write c) s = .next { s with fault := some .hostbufBounds, history := s.history ++ [.fault .hostbufBounds] }) ∧
  (∀ s : State, ∃ t, exec (.write 0) s = .next t ∧
    s.history ++ [.writeStart 0, .writeDone 0] <+: t.history ∧
    { t with history := s.history } = { s with respq := s.respq ++ [0x0000] }) ∧
  ∀ (c : Cnt) (s : State), c.toNat ≤ s.hostSrc.length → c ≠ 0 →
    exec (.write c) s = .next
      { s with wrTotal := c, wrIdx := 0, cseq := .write, history := s.history ++ [.writeStart c] } ∧
    busy { s with wrTotal := c, wrIdx := 0, cseq := .write, history := s.history ++ [.writeStart c] } = true

/-- R163: a WRITE in progress has a step exactly while no byte is waiting; the step offers the byte at wr_idx unchanged,
or, at wr_idx = wr_total, answers the count. The ring buffer is untouched. -/
def Obligations.WriteStepOffersOrFinishes : Prop :=
  (∀ s : State, s.cseq = .write → (canStep .seqStep s = true ↔ s.fault = none ∧ s.txValid = false)) ∧
  ∀ s : State, s.fault = none → s.cseq = .write → s.txValid = false →
    (∀ b : Byte, s.wrIdx < s.wrTotal → s.hostSrc[s.wrIdx.toNat]? = some b →
      perform .seqStep s = .next { s with txData := b, txValid := true, wrIdx := s.wrIdx + 1 }) ∧
    (s.wrIdx = s.wrTotal →
      ∃ t, perform .seqStep s = .next t ∧ s.history ++ [.writeDone s.wrTotal] <+: t.history ∧
        { t with history := s.history } =
          { s with respq := s.respq ++ [s.wrTotal.setWidth 16], cseq := .idle, wrTotal := 0, wrIdx := 0 })

/-- R162: TX ACCEPT is enabled exactly while a byte is offered and no fault is marked; it transmits that byte. -/
def Obligations.AcceptTransmitsTheOfferedByte : Prop :=
  (∀ s : State, canStep .accept s = true ↔ s.fault = none ∧ s.txValid = true) ∧
  ∀ s : State, s.fault = none → s.txValid = true →
    perform .accept s =
      .next { s with txLog := s.txLog ++ [s.txData], txValid := false, history := s.history ++ [.tx s.txData] }

/-- R110: SYNC_W2R is enabled exactly under LAGGED while the copy lags, for every j from 1 to the distance; it moves the
copy on by j modulo N, and never past head. -/
def Obligations.SyncW2RMovesTheCopyForward : Prop :=
  (∀ (s : State) (j : Nat), canStep (.w2r j) s = true ↔
    s.fault = none ∧ s.cfg.syncModel = .lagged ∧ s.headSync ≠ s.head ∧
      1 ≤ j ∧ j ≤ ptrDist s.cfg s.headSync s.head) ∧
  (∀ (s : State) (j : Nat), canStep (.w2r j) s = true →
    perform (.w2r j) s = .next
      { s with
        headSync := (s.headSync + j) % s.cfg.N, ghostHs := s.ghostHs + j
        history := s.history ++ [.syncW2R j] }) ∧
  ∀ (s : State) (j : Nat), PointerOrder s → canStep (.w2r j) s = true → s.ghostHs + j ≤ s.ghostH

/-- R111: SYNC_R2W, the same for tail_sync. -/
def Obligations.SyncR2WMovesTheCopyForward : Prop :=
  (∀ (s : State) (j : Nat), canStep (.r2w j) s = true ↔
    s.fault = none ∧ s.cfg.syncModel = .lagged ∧ s.tailSync ≠ s.tail ∧
      1 ≤ j ∧ j ≤ ptrDist s.cfg s.tailSync s.tail) ∧
  (∀ (s : State) (j : Nat), canStep (.r2w j) s = true →
    perform (.r2w j) s = .next
      { s with
        tailSync := (s.tailSync + j) % s.cfg.N, ghostTs := s.ghostTs + j
        history := s.history ++ [.syncR2W j] }) ∧
  ∀ (s : State) (j : Nat), PointerOrder s → canStep (.r2w j) s = true → s.ghostTs + j ≤ s.ghostT

/-- R180, R129: no operation traps, blocks or is refused: every one answers a next state in its one command step, from
every state. -/
def Obligations.EveryOperationAnswersANextState : Prop :=
  ∀ (i : Instr) (s : State), ∃ t, exec i s = .next t

/-- R180, R185: only the fault mark stops the machine; without it every step of every agent answers a next state. -/
def Obligations.OnlyTheFaultMarkStopsTheMachine : Prop :=
  ∀ s : State, s.fault = none → ∃ t, step s = .next t

/-! ## Steps -/

/-- R95 and the model's choice (log 2): the PRODUCER has a step exactly when no fault is marked, rx_en = 1 and RXQ is not empty; a step of the machine
that schedules it runs the PUT of RXQ's first byte, that byte taken and the schedule moved on. -/
def Obligations.ProducerStepRunsPutOfTheReceivedByte : Prop :=
  (∀ s : State, canStep .produce s = true ↔ s.fault = none ∧ s.rxEn = true ∧ s.rxq ≠ []) ∧
  ∀ (s : State) (b : Byte) (rest : List Byte) (ms : List Move),
    s.fault = none → s.schedule = .produce :: ms → s.rxEn = true → s.rxq = b :: rest →
      step s = exec (.put b) { s with schedule := ms, rxq := rest }

/-- R96 and the model's choice (log 2): the CONSUMER takes a command exactly when no fault is marked, cseq = IDLE and CMDQ is not empty; a step of the
machine that schedules it runs the operation that CMDQ's first word decodes to, or the ILLEGAL outcome, that word taken
and the schedule moved on. -/
def Obligations.CommandStepRunsTheDecodedWord : Prop :=
  (∀ s : State, canStep .command s = true ↔ s.fault = none ∧ s.cseq = .idle ∧ s.cmdq ≠ []) ∧
  (∀ (s : State) (w : Word) (i : Instr) (rest : List Word) (ms : List Move),
    s.fault = none → s.schedule = .command :: ms → s.cseq = .idle → s.cmdq = w :: rest → decodeC w = .instr i →
      step s = exec i { s with schedule := ms, cmdq := rest }) ∧
  ∀ (s : State) (w : Word) (r : Reject) (rest : List Word) (ms : List Move),
    s.fault = none → s.schedule = .command :: ms → s.cseq = .idle → s.cmdq = w :: rest → decodeC w = .illegal r →
      ∃ t, step s = .next t ∧ s.history ++ [.illegal .consumer w] <+: t.history ∧
        { t with history := s.history } =
          { s with schedule := ms, cmdq := rest, respq := s.respq ++ [0xC000] }

/-- The model's choice (log 2): a step performs the first scheduled move, or a free one where none is scheduled. Either way
it is the step of a run (`Run`) that names that move, but for the model's own two fields. -/
def Obligations.StepPerformsTheScheduledMove : Prop :=
  (∀ (s : State) (m : Move) (ms : List Move), s.fault = none → s.schedule = m :: ms →
    step s = perform m { s with schedule := ms }) ∧
  (∀ s : State, s.fault = none → s.schedule = [] →
    step s = perform (Config.freeMove s.draws) { s with draws := s.draws + 1 }) ∧
  ∀ s t : State, step s = .next t →
    step { unscheduled s with schedule := [nextMove s] } = .next (unscheduled t)

/-- R35 and the model's choice (log 4): a state with the fault mark has no step of any agent, and the machine answers the
mark; so a step that answers a next state started without one, and no step clears it. -/
def Obligations.FaultMarkStopsTheMachine : Prop :=
  (∀ (s : State) (f : Fault), s.fault = some f → (∀ m, canStep m s = false) ∧ step s = .fault f) ∧
  ∀ s t : State, step s = .next t → s.fault = none

/-- R80: a move changes RESPQ only by appending one word {st, 0b00, val}; taking a command appends exactly one, or starts
a READ or WRITE, or faults; a READ or WRITE in progress appends exactly one in the step that ends it. -/
def Obligations.OneResponsePerCommand : Prop :=
  ∀ (m : Move) (s t : State), perform m s = .next t →
    (t.respq = s.respq ∧ (t.cseq = s.cseq ∨ m = .command ∧ s.cseq = .idle) ∧
      (m = .command → canStep m s = true → t.cseq ≠ .idle ∨ t.fault ≠ none)) ∨
    ((m = .command ∨ m = .seqStep) ∧ t.cseq = .idle ∧ t.fault = none ∧
      ∃ (st : BitVec 2) (val : Cnt), t.respq = s.respq ++ [st ++ 0b00#2 ++ val])

/-- R196: while cseq is not IDLE no command is taken, and the words of CMDQ wait, in order. -/
def Obligations.CommandsWaitWhileBusy : Prop :=
  ∀ s : State, s.cseq ≠ .idle →
    canStep .command s = false ∧
    ∀ (m : Move) (t : State), perform m s = .next t → ∃ words, t.cmdq = s.cmdq ++ words

/-- R40: each agent, in every move of it, writes only its own state; INIT, with the receive path disabled, is the one
exception. A full catch-up (R87) is the synchroniser's step over the whole distance, or nothing. -/
def Obligations.EachAgentWritesOnlyItsOwnState : Prop :=
  (∀ s t : State, perform .produce s = .next t →
    (∀ a, a ≠ s.head → Memory.read t.mem a = Memory.read s.mem a) ∧
    t = { s with
          mem := t.mem, head := t.head, ovrCnt := t.ovrCnt
          rxq := t.rxq, history := t.history, ghostH := t.ghostH }) ∧
  (∀ (m : Move) (s t : State), m = .command ∨ m = .seqStep → perform m s = .next t →
    (m = .command ∧ s.cmdq.head? = some 0x1000 ∧ quiescent s = true) ∨
    ((s.txValid = true → t.txValid = true) ∧
      t = { s with
            tail := t.tail, cseq := t.cseq, rdMax := t.rdMax, rdCnt := t.rdCnt
            wrTotal := t.wrTotal, wrIdx := t.wrIdx, txValid := t.txValid, txData := t.txData
            fault := t.fault, cmdq := t.cmdq, respq := t.respq, hostOut := t.hostOut
            history := t.history, ghostT := t.ghostT })) ∧
  (∀ (m : Move) (s t : State), agentOf m = .syncW2R → perform m s = .next t →
    t = { s with headSync := t.headSync, history := t.history, ghostHs := t.ghostHs }) ∧
  (∀ (m : Move) (s t : State), agentOf m = .syncR2W → perform m s = .next t →
    t = { s with tailSync := t.tailSync, history := t.history, ghostTs := t.ghostTs }) ∧
  (∀ s : State, perform .w2rAll s = perform (.w2r (ptrDist s.cfg s.headSync s.head)) s ∧
    perform .r2wAll s = perform (.r2w (ptrDist s.cfg s.tailSync s.tail)) s) ∧
  (∀ s t : State, perform .accept s = .next t →
    t.txValid = false ∨ t = s) ∧
  (∀ s t : State, perform .accept s = .next t →
    t = { s with txValid := t.txValid, txLog := t.txLog, history := t.history }) ∧
  ∀ (m : Move) (s t : State), ofBlock m = false → perform m s = .next t →
    t = { s with
          rxEn := t.rxEn, rxq := t.rxq, cmdq := t.cmdq, hostOut := t.hostOut, hostSrc := t.hostSrc }

/-- R32, R41, R197 and the model's choices (log 15; log 26 for the live predicates): the host drives rx_en and appends to RXQ and CMDQ at any time, and
supplies HOSTOUT unless a READ is in progress and HOSTSRC unless a WRITE is; each move changes that one item; the levels it
may sample are those of R26, R27, R28, R34 and R41. -/
def Obligations.HostMovesChangeOneItem : Prop :=
  (∀ s : State, s.fault = none →
    (∀ on, perform (.rxEn on) s = .next { s with rxEn := on }) ∧
    (∀ bytes, perform (.receive bytes) s = .next { s with rxq := s.rxq ++ bytes }) ∧
    (∀ words, perform (.submit words) s = .next { s with cmdq := s.cmdq ++ words }) ∧
    (∀ buffer, s.cseq ≠ .read → perform (.supplyOut buffer) s = .next { s with hostOut := buffer }) ∧
    (∀ buffer, s.cseq ≠ .write → perform (.supplySrc buffer) s = .next { s with hostSrc := buffer })) ∧
  ∀ s : State,
    ((outputs s).emptyR = true ↔ s.tail = headView s) ∧
    ((outputs s).fullW = true ↔ (s.head + 1) % s.cfg.N = tailView s) ∧
    ((outputs s).busy = true ↔ s.cseq ≠ .idle) ∧ ((outputs s).cmdReady = true ↔ s.cseq = .idle) ∧
    ((outputs s).ovrCnt = if s.cfg.overrunCounter then some s.ovrCnt else none) ∧
    ((outputs s).trueEmpty = true ↔ s.head = s.tail) ∧
    ((outputs s).trueFull = true ↔ (s.head + 1) % s.cfg.N = s.tail)

/-- R231: the host has no move that changes HOSTOUT during a READ or HOSTSRC during a WRITE. -/
def Obligations.HostLeavesBuffersInUseAlone : Prop :=
  ∀ (m : Move) (s t : State), ofBlock m = false → perform m s = .next t →
    (s.cseq = .read → t.hostOut = s.hostOut) ∧ (s.cseq = .write → t.hostSrc = s.hostSrc)

/-- R165: a WRITE step neither reads nor writes RBMEM, the pointers or the copies: with other contents there, it does the
same and leaves them. -/
def Obligations.WriteStepIgnoresTheRingBuffer : Prop :=
  ∀ (s t : State) (mem : Memory) (h r hs rs : Nat), s.cseq = .write → perform .seqStep s = .next t →
    perform .seqStep { s with mem := mem, head := h, tail := r, headSync := hs, tailSync := rs } =
      .next { t with mem := mem, head := h, tail := r, headSync := hs, tailSync := rs } ∧
    t.mem = s.mem ∧ t.head = s.head ∧ t.tail = s.tail ∧ t.headSync = s.headSync ∧ t.tailSync = s.tailSync

/-- R200: ovr_cnt is 0 at reset; where the counter is present, a step changes it only by adding one, modulo 2^16, with a
PUT that met FULL, or by clearing it with INIT; where it is absent, no step changes it. -/
def Obligations.OverrunCounterCountsDrops : Prop :=
  (∀ c : Config, (State.resetFor c).ovrCnt = 0) ∧
  (∀ (m : Move) (s t : State), perform m s = .next t →
    t.ovrCnt = s.ovrCnt ∨
    (s.cfg.overrunCounter = true ∧ m = .produce ∧ t.ovrCnt = s.ovrCnt + 1 ∧
      ∃ b, t.history = s.history ++ [.put b .full]) ∨
    (s.cfg.overrunCounter = true ∧ m = .command ∧ t.ovrCnt = 0 ∧ s.history ++ [.init] <+: t.history)) ∧
  ∀ (b : Byte) (s t : State), s.cfg.overrunCounter = true → fullW s = true → exec (.put b) s = .next t →
    t.ovrCnt = s.ovrCnt + 1

/-- R36, R66: a step only appends to the history, to RESPQ and to TXLOG, and never changes the parameters. -/
def Obligations.LogsOnlyGrow : Prop :=
  ∀ s t : State, step s = .next t →
    s.history <+: t.history ∧ s.respq <+: t.respq ∧ s.txLog <+: t.txLog ∧ t.cfg = s.cfg

/-! ## Reset -/

/-- R39, R220: the state after power-on reset of any implementation, and its derived status. -/
def Obligations.ResetLeavesTheSpecValues : Prop :=
  ∀ c : Config,
    let s := State.resetFor c
    s.cfg = c ∧ s.head = 0 ∧ s.tail = 0 ∧ s.headSync = 0 ∧ s.tailSync = 0 ∧
    (∀ a, Memory.read s.mem a = none) ∧
    s.cseq = .idle ∧ s.rdMax = 0 ∧ s.rdCnt = 0 ∧ s.wrTotal = 0 ∧ s.wrIdx = 0 ∧
    s.txValid = false ∧ s.txData = 0 ∧ s.ovrCnt = 0 ∧ s.fault = none ∧ s.rxEn = false ∧ s.history = [] ∧
    emptyR s = true ∧ trueEmpty s = true ∧ (c.wf = true → fullW s = false)

/-- Every invariant holds at reset, of every implementation the spec allows. -/
def Obligations.InvariantsHoldAtReset : Prop :=
  ∀ c : Config, c.wf = true →
    let s := State.resetFor c
    PointerOrder s ∧ FifoOrder s ∧ MemoryOk s ∧ SequencerOk s ∧ ReadLogOk s ∧ WriteLogOk s ∧ LogsMatch s ∧
      ResponsesOk s ∧ OverrunOk s

/-! ## Invariants and the laws of the buffer -/

/-- R120: the pointer order holds at reset, and every step of every agent keeps it, under either SYNC_MODEL. -/
def Obligations.EveryStepKeepsThePointerOrder : Prop :=
  (∀ c : Config, c.wf = true → PointerOrder (State.resetFor c)) ∧
  ∀ s t : State, PointerOrder s → step s = .next t → PointerOrder t

/-- R121: the five distances recovered from the pointers are the differences of the counters. -/
def Obligations.DistancesAreExact : Prop :=
  ∀ s : State, PointerOrder s →
    ptrDist s.cfg s.tail s.head = s.ghostH - s.ghostT ∧
    ptrDist s.cfg (headView s) s.head = s.ghostH - ghostHsView s ∧
    ptrDist s.cfg (tailView s) s.tail = s.ghostT - ghostTsView s ∧
    ptrDist s.cfg s.tail (headView s) = ghostHsView s - s.ghostT ∧
    ptrDist s.cfg (tailView s) s.head = s.ghostH - ghostTsView s ∧
    s.head < s.cfg.N ∧ s.tail < s.cfg.N

/-- R28: the flags of the two sides are early, never late, and in a settled state equal the live predicates. -/
def Obligations.FlagsAreEarlyNeverLate : Prop :=
  ∀ s : State,
    (trueEmpty s = true ↔ s.head = s.tail) ∧
    (trueFull s = true ↔ (s.head + 1) % s.cfg.N = s.tail) ∧
    (settled s = true → emptyR s = trueEmpty s ∧ fullW s = trueFull s) ∧
    (PointerOrder s → (trueEmpty s = true → emptyR s = true) ∧ (trueFull s = true → fullW s = true))

/-- R103: at most N − 1 bytes are stored; from a settled state with k stored, N − 1 − k PUTs in a row all succeed and the
next is FULL; from a settled full buffer, after one GET and one full catch-up of tail_sync exactly one PUT succeeds. -/
def Obligations.CapacityIsOneLessThanN : Prop :=
  (∀ s : State, PointerOrder s → s.ghostT ≤ s.ghostH ∧ s.ghostH - s.ghostT ≤ s.cfg.N - 1) ∧
  (∀ (s : State) (bytes : List Byte), PointerOrder s → settled s = true →
    s.ghostH - s.ghostT + bytes.length = s.cfg.N - 1 →
      ∃ t, execAll (bytes.map .put) s = .next t ∧ t.ghostH = s.ghostH + bytes.length ∧ fullW t = true) ∧
  ∀ (s : State) (b : Byte), PointerOrder s → FifoOrder s → settled s = true → s.fault = none →
    s.ghostH - s.ghostT = s.cfg.N - 1 →
      ∃ t u v, exec .get s = .next t ∧ t.ghostT = s.ghostT + 1 ∧ perform .r2wAll t = .next u ∧
        fullW u = false ∧ exec (.put b) u = .next v ∧ v.ghostH = s.ghostH + 1 ∧ fullW v = true

/-- R124: removals return the bytes of the PUTs since the last INIT in order, whatever the interleaving: the FIFO law
holds at reset and every step keeps it. -/
def Obligations.EveryStepKeepsTheFifoLaw : Prop :=
  (∀ c : Config, FifoOrder (State.resetFor c)) ∧
  ∀ s t : State, PointerOrder s → FifoOrder s → step s = .next t → FifoOrder t

/-- R125: the slots from tail to head hold the bytes of PUTs number T to H − 1, in order. -/
def Obligations.StoredBytesAreThePutsNotYetRemoved : Prop :=
  ∀ s : State, PointerOrder s → FifoOrder s →
    storedBytes s = (putsSinceInit s.history).drop s.ghostT ∧ (storedBytes s).length = s.ghostH - s.ghostT

/-- R122: no run reads an unwritten slot. -/
def Obligations.UnwrittenSlotIsUnreachable : Prop :=
  ∀ s t : State, PointerOrder s → FifoOrder s → step s = .next t → t.fault ≠ some .unwrittenSlot

/-- R123: a PUT that is not FULL is number k with k ≤ Ts + N − 2 ≤ T + N − 2, and its slot holds no byte still to be
removed. -/
def Obligations.PutOverwritesNoUnreadByte : Prop :=
  ∀ s : State, PointerOrder s → fullW s = false →
    s.ghostH ≤ ghostTsView s + s.cfg.N - 2 ∧ s.ghostH ≤ s.ghostT + s.cfg.N - 2 ∧
    ∀ k, s.ghostT ≤ k → k < s.ghostH → k % s.cfg.N ≠ s.head

/-- R51: RBMEM stays in its canonical form and within slots 0..N−1. -/
def Obligations.EveryStepKeepsMemoryCanonical : Prop :=
  ∀ s t : State, PointerOrder s → MemoryOk s → step s = .next t → MemoryOk t

/-- R31, R140, R142, R160, R163: the sequencer's registers stay consistent with what it is doing. -/
def Obligations.EveryStepKeepsTheSequencer : Prop :=
  ∀ s t : State, SequencerOk s → step s = .next t → SequencerOk t

/-- R193: a READ or WRITE that has started never meets HOSTBUF_BOUNDS. -/
def Obligations.StartedOperationStaysInItsBuffer : Prop :=
  ∀ s t : State, SequencerOk s → s.fault = none → perform .seqStep s = .next t → t.fault ≠ some .hostbufBounds

/-- R145: the translation law of every READ holds in every step. -/
def Obligations.EveryStepKeepsTheTranslationLaw : Prop :=
  ∀ s t : State, SequencerOk s → ReadLogOk s → step s = .next t → ReadLogOk t

/-- R163, R164: the bytes accepted or offered by a WRITE in progress stay the first bytes of HOSTSRC, in order. -/
def Obligations.EveryStepKeepsTheWriteOrder : Prop :=
  ∀ s t : State, SequencerOk s → WriteLogOk s → step s = .next t → WriteLogOk t

/-- R164: a WRITE answers once, with its count, and only after TX has accepted every byte of it in HOSTSRC order. -/
def Obligations.WriteAnswersAfterTheLastAcceptance : Prop :=
  ∀ (m : Move) (s t : State), SequencerOk s → WriteLogOk s → s.fault = none → s.cseq = .write →
    perform m s = .next t → (t.respq ≠ s.respq ∨ t.cseq ≠ .write) →
      t.respq = s.respq ++ [s.wrTotal.setWidth 16] ∧ t.cseq = .idle ∧ s.txValid = false ∧
      txSinceWrite s.history = s.hostSrc.take s.wrTotal.toNat ∧
      (txSinceWrite s.history).length = s.wrTotal.toNat

/-- The model's choice (log 5), with R33 and R36: RESPQ and TXLOG are the history's responses and transmitted bytes. -/
def Obligations.EveryStepKeepsTheLogsInHistory : Prop :=
  ∀ s t : State, LogsMatch s → step s = .next t → LogsMatch t

/-- R80, R81: no response word ever has bits 13:12 set or the status FULL. -/
def Obligations.EveryStepKeepsResponsesLegal : Prop :=
  ∀ s t : State, ResponsesOk s → step s = .next t → ResponsesOk t

/-- R206: under LAGGED a PUT and a removal by GET or by a READ step commute: either order gives the same state, and the
same events in another order, so the same outcomes. -/
def Obligations.PutAndRemovalCommuteUnderLag : Prop :=
  ∀ (s : State) (b : Byte), PointerOrder s → s.cfg.syncModel = .lagged →
    (∃ p g pg gp, exec (.put b) s = .next p ∧ exec .get p = .next pg ∧ exec .get s = .next g ∧
      exec (.put b) g = .next gp ∧ pg = { gp with history := pg.history } ∧ pg.history.Perm gp.history) ∧
    (∃ p pr, exec (.put b) s = .next p ∧ exec (.put b) (readStep s) = .next pr ∧
      readStep p = { pr with history := (readStep p).history } ∧ (readStep p).history.Perm pr.history)

/-- R128, R236. In every weakly fair run without INIT, from some point on SYNC_W2R has shown the read side every byte stored
at the start, and whenever one of them is still stored a GET answers the oldest byte. In every weakly fair run that starts
with the buffer seen full while removals are not yet known to the write side, either tail_sync advances or an INIT comes,
and there a PUT succeeds. In finite form: one full catch-up is enough, for the GET and for the PUT. -/
def Obligations.CaughtUpSidesMakeProgress : Prop :=
  (∀ (ms : Nat → Move) (r : Nat → State), FairRun ms r → PointerOrder (r 0) → FifoOrder (r 0) →
    (∀ k, initCount (r k) = initCount (r 0)) → (r 0).ghostT < (r 0).ghostH →
      ∃ k, ∀ i, k ≤ i →
        (r 0).ghostH ≤ ghostHsView (r i) ∧
        ((r i).ghostT < (r 0).ghostH →
          ∃ b t, (putsSinceInit (r 0).history)[(r i).ghostT]? = some b ∧ exec .get (r i) = .next t ∧
            t.ghostT = (r i).ghostT + 1 ∧ t.respq = (r i).respq ++ [b.setWidth 16])) ∧
  (∀ (ms : Nat → Move) (r : Nat → State), FairRun ms r → PointerOrder (r 0) →
    fullW (r 0) = true → ghostTsView (r 0) < (r 0).ghostT →
      ∃ k, (ghostTsView (r 0) < ghostTsView (r k) ∨ initCount (r 0) < initCount (r k)) ∧
        ∀ b, ∃ t, exec (.put b) (r k) = .next t ∧ t.ghostH = (r k).ghostH + 1) ∧
  (∀ s : State, PointerOrder s → FifoOrder s → s.fault = none → s.ghostT < s.ghostH →
    ∃ u t b, perform .w2rAll s = .next u ∧ exec .get u = .next t ∧
      (putsSinceInit s.history)[s.ghostT]? = some b ∧ t.respq = s.respq ++ [b.setWidth 16]) ∧
  ∀ (s : State) (b : Byte), PointerOrder s → s.fault = none → fullW s = true → ghostTsView s < s.ghostT →
    ∃ u t, perform .r2wAll s = .next u ∧ exec (.put b) u = .next t ∧ t.ghostH = s.ghostH + 1

/-- R113: what an IMMEDIATE implementation does in one move, a LAGGED one does in that move and a full catch-up of both
copies, from and to a settled state. -/
def Obligations.ImmediateIsARestrictionOfLagged : Prop :=
  ∀ (m : Move) (s t' : State), PointerOrder s → s.cfg.syncModel = .lagged → settled s = true →
    perform m (asImmediate s) = .next t' →
      ∃ t, performAll [m, .w2rAll, .r2wAll] s = .next t ∧ asImmediate t = t' ∧ settled t = true

/-! ## Whole operations -/

/-- R146, on the model's schedule: a READ in progress ends, whatever the other agents do between its steps, by the time it
has been given as many steps as it has bytes left to its bound. Which moves come is the schedule's, and a scheduled move
whose agent has no step passes: both are the model's choices (log 2, log 3). -/
def Obligations.ReadTerminatesWhateverOthersDo : Prop :=
  ∀ (s : State) (ms : List Move), PointerOrder s → FifoOrder s → SequencerOk s → s.fault = none → s.cseq = .read →
    s.schedule = ms → s.rdMax.toNat - s.rdCnt.toNat ≤ ms.count .seqStep →
      ∃ k t, k ≤ ms.length ∧ Host.Core.run core k s = .next t ∧ t.cseq = .idle ∧
        ∃ n : Cnt, n ≤ s.rdMax ∧ t.respq = s.respq ++ [n.setWidth 16]

/-- R146, R147, R149: from a settled state, a READ whose steps nothing interrupts takes the stored line: at most m bytes,
up to and with the first CR. It writes that line translated at the front of HOSTOUT and nothing after it, answers its
length, and leaves the rest stored. It is given m sequencer moves; those left over after its response pass, which is the
model's choice (log 3, and log 20 for READ!), not the spec's. -/
def Obligations.UninterruptedReadReturnsTheLine : Prop :=
  ∀ (s : State) (m : Cnt), PointerOrder s → FifoOrder s → settled s = true → s.fault = none →
    s.cseq = .idle → m ≠ 0 → m.toNat ≤ s.hostOut.length →
      let line := takeLine m.toNat (storedBytes s)
      ∃ r t, exec (.read m) s = .next r ∧ performAll (List.replicate m.toNat .seqStep) r = .next t ∧
        t.cseq = .idle ∧ t.fault = none ∧
        t.respq = s.respq ++ [BitVec.ofNat 16 line.length] ∧
        t.hostOut = line.map crToLf ++ s.hostOut.drop line.length ∧
        storedBytes t = (storedBytes s).drop line.length

/-- R163, R164, R235: a WRITE of c > 0 bytes, each accepted when offered, takes c offers, c acceptances and one finishing
step; it transmits the first c bytes of HOSTSRC unchanged and answers c. -/
def Obligations.AcceptedWriteTransmitsTheBuffer : Prop :=
  ∀ (s : State) (c : Cnt), s.fault = none → s.cseq = .idle → s.txValid = false → c ≠ 0 → c.toNat ≤ s.hostSrc.length →
    ∃ r t, exec (.write c) s = .next r ∧
      performAll ((List.replicate c.toNat [Move.seqStep, .accept]).flatten ++ [.seqStep]) r = .next t ∧
      t.cseq = .idle ∧ t.txLog = s.txLog ++ s.hostSrc.take c.toNat ∧ t.respq = s.respq ++ [c.setWidth 16] ∧
      t.mem = s.mem ∧ t.head = s.head ∧ t.tail = s.tail

/-- R237: a run has ended exactly where no fault is marked and no agent of the block, nor TX, has a step. -/
def Obligations.EndedMeansNoAgentCanStep : Prop :=
  ∀ s : State, PointerOrder s →
    (ended s = true ↔ s.fault = none ∧ ∀ m : Move, ofBlock m = true → canStep m s = false)

/-! ## The physical crossing -/

/-- R112 (the spec's general knowledge, G1): bin inverts gray, and gray inverts bin, over any width; and the table of R112 for PTR_W = 2. -/
def Obligations.GrayCodeRoundTrips : Prop :=
  (∀ (w : Nat) (p : BitVec w), bin (gray p) = p) ∧ (∀ (w : Nat) (g : BitVec w), gray (bin g) = g) ∧
  gray (0 : BitVec 2) = 0b00 ∧ gray (1 : BitVec 2) = 0b01 ∧ gray (2 : BitVec 2) = 0b11 ∧ gray (3 : BitVec 2) = 0b10

/-- R112 (the spec's general knowledge, G2): the Gray codes of a pointer and of its successor, the wrap included, differ in exactly one bit. -/
def Obligations.GrayStepsDifferInOneBit : Prop :=
  ∀ (w : Nat) (p : BitVec w), 1 ≤ w →
    ∃ i, i < w ∧ ∀ k, k < w → ((gray p).getLsbD k ≠ (gray (p + 1)).getLsbD k ↔ k = i)

/-- R112, R59 (the spec's general knowledge, G2): a sample taken while the pointer moves on, each bit old or new, reads as the old value or the new one. -/
def Obligations.GraySampleIsOldOrNew : Prop :=
  ∀ (w : Nat) (p x : BitVec w),
    (∀ k, k < w → x.getLsbD k = (gray p).getLsbD k ∨ x.getLsbD k = (gray (p + 1)).getLsbD k) →
      bin x = p ∨ bin x = p + 1
end

