-- ==== Sys2Proof/Laws/Index.lean ====
section
/-! SUPPORT. Index arithmetic modulo N: pointers that follow counters (00_scope.md R13, 10_state.md R37). -/

namespace Sys2Proof.Machine

theorem N_pos (c : Config) : 0 < c.N := Nat.two_pow_pos _

theorem two_le_N {c : Config} (h : c.wf = true) : 2 ≤ c.N := by
  have hp : 1 ≤ c.ptrW := by simp [Config.wf] at h; exact h.1
  calc 2 = 2 ^ 1 := rfl
    _ ≤ 2 ^ c.ptrW := Nat.pow_le_pow_right (by decide) hp

theorem inc_lt (c : Config) (p : Nat) : inc c p < c.N := Nat.mod_lt _ (N_pos c)

theorem ptrDist_lt (c : Config) (a b : Nat) : ptrDist c a b < c.N := Nat.mod_lt _ (N_pos c)

/-- The pointer of a counter follows the counter's step. -/
theorem inc_mod (c : Config) (a : Nat) : inc c (a % c.N) = (a + 1) % c.N := by simp [inc]

/-- Counters less than N apart with equal pointers are equal. -/
theorem eq_of_mod_eq {n a b : Nat} (hab : a ≤ b) (hlt : b < a + n) (h : a % n = b % n) : a = b := by
  have hd : n ∣ b - a := (Nat.modEq_iff_dvd' hab).1 h
  have := Nat.eq_zero_of_dvd_of_lt hd (by omega)
  omega

/-- The distance of two pointers is that of their counters, where the counters are less than N apart (R121). -/
theorem ptrDist_mod (c : Config) {a b : Nat} (hab : a ≤ b) (hlt : b < a + c.N) :
    ptrDist c (a % c.N) (b % c.N) = b - a := by
  have hN := N_pos c
  have ha := Nat.mod_lt a hN
  obtain ⟨d, rfl⟩ := Nat.exists_eq_add_of_le hab
  have h1 : ptrDist c (a % c.N) ((a + d) % c.N) = (a % c.N + d + (c.N - a % c.N)) % c.N := by
    simp [ptrDist, Nat.add_mod]
  rw [h1, show a % c.N + d + (c.N - a % c.N) = d + c.N by omega, Nat.add_mod_right,
    Nat.mod_eq_of_lt (by omega)]
  omega

end Sys2Proof.Machine
end

