-- ==== Sys2Proof/Laws/State.lean ====
section
/-! SUPPORT. What each named update does to each field of the state: one equation per field, so that no proof unfolds an
update. -/

namespace Sys2Proof.Machine

variable (s : State)

section record

variable (e : Event)

@[simp] theorem record_cfg : (record e s).cfg = s.cfg := rfl
@[simp] theorem record_mem : (record e s).mem = s.mem := rfl
@[simp] theorem record_head : (record e s).head = s.head := rfl
@[simp] theorem record_tail : (record e s).tail = s.tail := rfl
@[simp] theorem record_headSync : (record e s).headSync = s.headSync := rfl
@[simp] theorem record_tailSync : (record e s).tailSync = s.tailSync := rfl
@[simp] theorem record_cseq : (record e s).cseq = s.cseq := rfl
@[simp] theorem record_rdMax : (record e s).rdMax = s.rdMax := rfl
@[simp] theorem record_rdCnt : (record e s).rdCnt = s.rdCnt := rfl
@[simp] theorem record_wrTotal : (record e s).wrTotal = s.wrTotal := rfl
@[simp] theorem record_wrIdx : (record e s).wrIdx = s.wrIdx := rfl
@[simp] theorem record_txValid : (record e s).txValid = s.txValid := rfl
@[simp] theorem record_txData : (record e s).txData = s.txData := rfl
@[simp] theorem record_ovrCnt : (record e s).ovrCnt = s.ovrCnt := rfl
@[simp] theorem record_fault : (record e s).fault = s.fault := rfl
@[simp] theorem record_rxEn : (record e s).rxEn = s.rxEn := rfl
@[simp] theorem record_rxq : (record e s).rxq = s.rxq := rfl
@[simp] theorem record_cmdq : (record e s).cmdq = s.cmdq := rfl
@[simp] theorem record_respq : (record e s).respq = s.respq := rfl
@[simp] theorem record_hostOut : (record e s).hostOut = s.hostOut := rfl
@[simp] theorem record_hostSrc : (record e s).hostSrc = s.hostSrc := rfl
@[simp] theorem record_txLog : (record e s).txLog = s.txLog := rfl
@[simp] theorem record_history : (record e s).history = s.history ++ [e] := rfl
@[simp] theorem record_ghostH : (record e s).ghostH = s.ghostH := rfl
@[simp] theorem record_ghostT : (record e s).ghostT = s.ghostT := rfl
@[simp] theorem record_ghostHs : (record e s).ghostHs = s.ghostHs := rfl
@[simp] theorem record_ghostTs : (record e s).ghostTs = s.ghostTs := rfl
@[simp] theorem record_schedule : (record e s).schedule = s.schedule := rfl
@[simp] theorem record_draws : (record e s).draws = s.draws := rfl

end record

section respond

variable (st : Status) (v : Cnt)

@[simp] theorem respond_cfg : (respond st v s).cfg = s.cfg := rfl
@[simp] theorem respond_mem : (respond st v s).mem = s.mem := rfl
@[simp] theorem respond_head : (respond st v s).head = s.head := rfl
@[simp] theorem respond_tail : (respond st v s).tail = s.tail := rfl
@[simp] theorem respond_headSync : (respond st v s).headSync = s.headSync := rfl
@[simp] theorem respond_tailSync : (respond st v s).tailSync = s.tailSync := rfl
@[simp] theorem respond_cseq : (respond st v s).cseq = s.cseq := rfl
@[simp] theorem respond_rdMax : (respond st v s).rdMax = s.rdMax := rfl
@[simp] theorem respond_rdCnt : (respond st v s).rdCnt = s.rdCnt := rfl
@[simp] theorem respond_wrTotal : (respond st v s).wrTotal = s.wrTotal := rfl
@[simp] theorem respond_wrIdx : (respond st v s).wrIdx = s.wrIdx := rfl
@[simp] theorem respond_txValid : (respond st v s).txValid = s.txValid := rfl
@[simp] theorem respond_txData : (respond st v s).txData = s.txData := rfl
@[simp] theorem respond_ovrCnt : (respond st v s).ovrCnt = s.ovrCnt := rfl
@[simp] theorem respond_fault : (respond st v s).fault = s.fault := rfl
@[simp] theorem respond_rxEn : (respond st v s).rxEn = s.rxEn := rfl
@[simp] theorem respond_rxq : (respond st v s).rxq = s.rxq := rfl
@[simp] theorem respond_cmdq : (respond st v s).cmdq = s.cmdq := rfl
@[simp] theorem respond_respq : (respond st v s).respq = s.respq ++ [responseWord st v] := rfl
@[simp] theorem respond_hostOut : (respond st v s).hostOut = s.hostOut := rfl
@[simp] theorem respond_hostSrc : (respond st v s).hostSrc = s.hostSrc := rfl
@[simp] theorem respond_txLog : (respond st v s).txLog = s.txLog := rfl
@[simp] theorem respond_history : (respond st v s).history = s.history ++ [.resp (responseWord st v)] := rfl
@[simp] theorem respond_ghostH : (respond st v s).ghostH = s.ghostH := rfl
@[simp] theorem respond_ghostT : (respond st v s).ghostT = s.ghostT := rfl
@[simp] theorem respond_ghostHs : (respond st v s).ghostHs = s.ghostHs := rfl
@[simp] theorem respond_ghostTs : (respond st v s).ghostTs = s.ghostTs := rfl
@[simp] theorem respond_schedule : (respond st v s).schedule = s.schedule := rfl
@[simp] theorem respond_draws : (respond st v s).draws = s.draws := rfl

end respond

section raiseFault

variable (f : Fault)

@[simp] theorem raiseFault_cfg : (raiseFault f s).cfg = s.cfg := rfl
@[simp] theorem raiseFault_mem : (raiseFault f s).mem = s.mem := rfl
@[simp] theorem raiseFault_head : (raiseFault f s).head = s.head := rfl
@[simp] theorem raiseFault_tail : (raiseFault f s).tail = s.tail := rfl
@[simp] theorem raiseFault_headSync : (raiseFault f s).headSync = s.headSync := rfl
@[simp] theorem raiseFault_tailSync : (raiseFault f s).tailSync = s.tailSync := rfl
@[simp] theorem raiseFault_cseq : (raiseFault f s).cseq = s.cseq := rfl
@[simp] theorem raiseFault_rdMax : (raiseFault f s).rdMax = s.rdMax := rfl
@[simp] theorem raiseFault_rdCnt : (raiseFault f s).rdCnt = s.rdCnt := rfl
@[simp] theorem raiseFault_wrTotal : (raiseFault f s).wrTotal = s.wrTotal := rfl
@[simp] theorem raiseFault_wrIdx : (raiseFault f s).wrIdx = s.wrIdx := rfl
@[simp] theorem raiseFault_txValid : (raiseFault f s).txValid = s.txValid := rfl
@[simp] theorem raiseFault_txData : (raiseFault f s).txData = s.txData := rfl
@[simp] theorem raiseFault_ovrCnt : (raiseFault f s).ovrCnt = s.ovrCnt := rfl
@[simp] theorem raiseFault_fault : (raiseFault f s).fault = some f := rfl
@[simp] theorem raiseFault_rxEn : (raiseFault f s).rxEn = s.rxEn := rfl
@[simp] theorem raiseFault_rxq : (raiseFault f s).rxq = s.rxq := rfl
@[simp] theorem raiseFault_cmdq : (raiseFault f s).cmdq = s.cmdq := rfl
@[simp] theorem raiseFault_respq : (raiseFault f s).respq = s.respq := rfl
@[simp] theorem raiseFault_hostOut : (raiseFault f s).hostOut = s.hostOut := rfl
@[simp] theorem raiseFault_hostSrc : (raiseFault f s).hostSrc = s.hostSrc := rfl
@[simp] theorem raiseFault_txLog : (raiseFault f s).txLog = s.txLog := rfl
@[simp] theorem raiseFault_history : (raiseFault f s).history = s.history ++ [.fault f] := rfl
@[simp] theorem raiseFault_ghostH : (raiseFault f s).ghostH = s.ghostH := rfl
@[simp] theorem raiseFault_ghostT : (raiseFault f s).ghostT = s.ghostT := rfl
@[simp] theorem raiseFault_ghostHs : (raiseFault f s).ghostHs = s.ghostHs := rfl
@[simp] theorem raiseFault_ghostTs : (raiseFault f s).ghostTs = s.ghostTs := rfl
@[simp] theorem raiseFault_schedule : (raiseFault f s).schedule = s.schedule := rfl
@[simp] theorem raiseFault_draws : (raiseFault f s).draws = s.draws := rfl

end raiseFault

section emitTx

variable (b : Byte)

@[simp] theorem emitTx_cfg : (emitTx b s).cfg = s.cfg := rfl
@[simp] theorem emitTx_mem : (emitTx b s).mem = s.mem := rfl
@[simp] theorem emitTx_head : (emitTx b s).head = s.head := rfl
@[simp] theorem emitTx_tail : (emitTx b s).tail = s.tail := rfl
@[simp] theorem emitTx_headSync : (emitTx b s).headSync = s.headSync := rfl
@[simp] theorem emitTx_tailSync : (emitTx b s).tailSync = s.tailSync := rfl
@[simp] theorem emitTx_cseq : (emitTx b s).cseq = s.cseq := rfl
@[simp] theorem emitTx_rdMax : (emitTx b s).rdMax = s.rdMax := rfl
@[simp] theorem emitTx_rdCnt : (emitTx b s).rdCnt = s.rdCnt := rfl
@[simp] theorem emitTx_wrTotal : (emitTx b s).wrTotal = s.wrTotal := rfl
@[simp] theorem emitTx_wrIdx : (emitTx b s).wrIdx = s.wrIdx := rfl
@[simp] theorem emitTx_txValid : (emitTx b s).txValid = true := rfl
@[simp] theorem emitTx_txData : (emitTx b s).txData = b := rfl
@[simp] theorem emitTx_ovrCnt : (emitTx b s).ovrCnt = s.ovrCnt := rfl
@[simp] theorem emitTx_fault : (emitTx b s).fault = s.fault := rfl
@[simp] theorem emitTx_rxEn : (emitTx b s).rxEn = s.rxEn := rfl
@[simp] theorem emitTx_rxq : (emitTx b s).rxq = s.rxq := rfl
@[simp] theorem emitTx_cmdq : (emitTx b s).cmdq = s.cmdq := rfl
@[simp] theorem emitTx_respq : (emitTx b s).respq = s.respq := rfl
@[simp] theorem emitTx_hostOut : (emitTx b s).hostOut = s.hostOut := rfl
@[simp] theorem emitTx_hostSrc : (emitTx b s).hostSrc = s.hostSrc := rfl
@[simp] theorem emitTx_txLog : (emitTx b s).txLog = s.txLog := rfl
@[simp] theorem emitTx_history : (emitTx b s).history = s.history := rfl
@[simp] theorem emitTx_ghostH : (emitTx b s).ghostH = s.ghostH := rfl
@[simp] theorem emitTx_ghostT : (emitTx b s).ghostT = s.ghostT := rfl
@[simp] theorem emitTx_ghostHs : (emitTx b s).ghostHs = s.ghostHs := rfl
@[simp] theorem emitTx_ghostTs : (emitTx b s).ghostTs = s.ghostTs := rfl
@[simp] theorem emitTx_schedule : (emitTx b s).schedule = s.schedule := rfl
@[simp] theorem emitTx_draws : (emitTx b s).draws = s.draws := rfl

end emitTx

section initBuffer

@[simp] theorem initBuffer_cfg : (initBuffer s).cfg = s.cfg := rfl
@[simp] theorem initBuffer_mem : (initBuffer s).mem = [] := rfl
@[simp] theorem initBuffer_head : (initBuffer s).head = 0 := rfl
@[simp] theorem initBuffer_tail : (initBuffer s).tail = 0 := rfl
@[simp] theorem initBuffer_headSync : (initBuffer s).headSync = 0 := rfl
@[simp] theorem initBuffer_tailSync : (initBuffer s).tailSync = 0 := rfl
@[simp] theorem initBuffer_cseq : (initBuffer s).cseq = s.cseq := rfl
@[simp] theorem initBuffer_rdMax : (initBuffer s).rdMax = s.rdMax := rfl
@[simp] theorem initBuffer_rdCnt : (initBuffer s).rdCnt = s.rdCnt := rfl
@[simp] theorem initBuffer_wrTotal : (initBuffer s).wrTotal = s.wrTotal := rfl
@[simp] theorem initBuffer_wrIdx : (initBuffer s).wrIdx = s.wrIdx := rfl
@[simp] theorem initBuffer_txValid : (initBuffer s).txValid = s.txValid := rfl
@[simp] theorem initBuffer_txData : (initBuffer s).txData = s.txData := rfl
@[simp] theorem initBuffer_ovrCnt : (initBuffer s).ovrCnt = if s.cfg.overrunCounter then 0 else s.ovrCnt := rfl
@[simp] theorem initBuffer_fault : (initBuffer s).fault = s.fault := rfl
@[simp] theorem initBuffer_rxEn : (initBuffer s).rxEn = s.rxEn := rfl
@[simp] theorem initBuffer_rxq : (initBuffer s).rxq = s.rxq := rfl
@[simp] theorem initBuffer_cmdq : (initBuffer s).cmdq = s.cmdq := rfl
@[simp] theorem initBuffer_respq : (initBuffer s).respq = s.respq := rfl
@[simp] theorem initBuffer_hostOut : (initBuffer s).hostOut = s.hostOut := rfl
@[simp] theorem initBuffer_hostSrc : (initBuffer s).hostSrc = s.hostSrc := rfl
@[simp] theorem initBuffer_txLog : (initBuffer s).txLog = s.txLog := rfl
@[simp] theorem initBuffer_history : (initBuffer s).history = s.history := rfl
@[simp] theorem initBuffer_ghostH : (initBuffer s).ghostH = 0 := rfl
@[simp] theorem initBuffer_ghostT : (initBuffer s).ghostT = 0 := rfl
@[simp] theorem initBuffer_ghostHs : (initBuffer s).ghostHs = 0 := rfl
@[simp] theorem initBuffer_ghostTs : (initBuffer s).ghostTs = 0 := rfl
@[simp] theorem initBuffer_schedule : (initBuffer s).schedule = s.schedule := rfl
@[simp] theorem initBuffer_draws : (initBuffer s).draws = s.draws := rfl

end initBuffer

section txAccept

@[simp] theorem txAccept_cfg : (txAccept s).cfg = s.cfg := rfl
@[simp] theorem txAccept_mem : (txAccept s).mem = s.mem := rfl
@[simp] theorem txAccept_head : (txAccept s).head = s.head := rfl
@[simp] theorem txAccept_tail : (txAccept s).tail = s.tail := rfl
@[simp] theorem txAccept_headSync : (txAccept s).headSync = s.headSync := rfl
@[simp] theorem txAccept_tailSync : (txAccept s).tailSync = s.tailSync := rfl
@[simp] theorem txAccept_cseq : (txAccept s).cseq = s.cseq := rfl
@[simp] theorem txAccept_rdMax : (txAccept s).rdMax = s.rdMax := rfl
@[simp] theorem txAccept_rdCnt : (txAccept s).rdCnt = s.rdCnt := rfl
@[simp] theorem txAccept_wrTotal : (txAccept s).wrTotal = s.wrTotal := rfl
@[simp] theorem txAccept_wrIdx : (txAccept s).wrIdx = s.wrIdx := rfl
@[simp] theorem txAccept_txValid : (txAccept s).txValid = false := rfl
@[simp] theorem txAccept_txData : (txAccept s).txData = s.txData := rfl
@[simp] theorem txAccept_ovrCnt : (txAccept s).ovrCnt = s.ovrCnt := rfl
@[simp] theorem txAccept_fault : (txAccept s).fault = s.fault := rfl
@[simp] theorem txAccept_rxEn : (txAccept s).rxEn = s.rxEn := rfl
@[simp] theorem txAccept_rxq : (txAccept s).rxq = s.rxq := rfl
@[simp] theorem txAccept_cmdq : (txAccept s).cmdq = s.cmdq := rfl
@[simp] theorem txAccept_respq : (txAccept s).respq = s.respq := rfl
@[simp] theorem txAccept_hostOut : (txAccept s).hostOut = s.hostOut := rfl
@[simp] theorem txAccept_hostSrc : (txAccept s).hostSrc = s.hostSrc := rfl
@[simp] theorem txAccept_txLog : (txAccept s).txLog = s.txLog ++ [s.txData] := rfl
@[simp] theorem txAccept_history : (txAccept s).history = s.history ++ [.tx s.txData] := rfl
@[simp] theorem txAccept_ghostH : (txAccept s).ghostH = s.ghostH := rfl
@[simp] theorem txAccept_ghostT : (txAccept s).ghostT = s.ghostT := rfl
@[simp] theorem txAccept_ghostHs : (txAccept s).ghostHs = s.ghostHs := rfl
@[simp] theorem txAccept_ghostTs : (txAccept s).ghostTs = s.ghostTs := rfl
@[simp] theorem txAccept_schedule : (txAccept s).schedule = s.schedule := rfl
@[simp] theorem txAccept_draws : (txAccept s).draws = s.draws := rfl

end txAccept

section syncW2R

variable (j : Nat)

@[simp] theorem syncW2R_cfg : (syncW2R j s).cfg = s.cfg := rfl
@[simp] theorem syncW2R_mem : (syncW2R j s).mem = s.mem := rfl
@[simp] theorem syncW2R_head : (syncW2R j s).head = s.head := rfl
@[simp] theorem syncW2R_tail : (syncW2R j s).tail = s.tail := rfl
@[simp] theorem syncW2R_headSync : (syncW2R j s).headSync = (s.headSync + j) % s.cfg.N := rfl
@[simp] theorem syncW2R_tailSync : (syncW2R j s).tailSync = s.tailSync := rfl
@[simp] theorem syncW2R_cseq : (syncW2R j s).cseq = s.cseq := rfl
@[simp] theorem syncW2R_rdMax : (syncW2R j s).rdMax = s.rdMax := rfl
@[simp] theorem syncW2R_rdCnt : (syncW2R j s).rdCnt = s.rdCnt := rfl
@[simp] theorem syncW2R_wrTotal : (syncW2R j s).wrTotal = s.wrTotal := rfl
@[simp] theorem syncW2R_wrIdx : (syncW2R j s).wrIdx = s.wrIdx := rfl
@[simp] theorem syncW2R_txValid : (syncW2R j s).txValid = s.txValid := rfl
@[simp] theorem syncW2R_txData : (syncW2R j s).txData = s.txData := rfl
@[simp] theorem syncW2R_ovrCnt : (syncW2R j s).ovrCnt = s.ovrCnt := rfl
@[simp] theorem syncW2R_fault : (syncW2R j s).fault = s.fault := rfl
@[simp] theorem syncW2R_rxEn : (syncW2R j s).rxEn = s.rxEn := rfl
@[simp] theorem syncW2R_rxq : (syncW2R j s).rxq = s.rxq := rfl
@[simp] theorem syncW2R_cmdq : (syncW2R j s).cmdq = s.cmdq := rfl
@[simp] theorem syncW2R_respq : (syncW2R j s).respq = s.respq := rfl
@[simp] theorem syncW2R_hostOut : (syncW2R j s).hostOut = s.hostOut := rfl
@[simp] theorem syncW2R_hostSrc : (syncW2R j s).hostSrc = s.hostSrc := rfl
@[simp] theorem syncW2R_txLog : (syncW2R j s).txLog = s.txLog := rfl
@[simp] theorem syncW2R_history : (syncW2R j s).history = s.history ++ [.syncW2R j] := rfl
@[simp] theorem syncW2R_ghostH : (syncW2R j s).ghostH = s.ghostH := rfl
@[simp] theorem syncW2R_ghostT : (syncW2R j s).ghostT = s.ghostT := rfl
@[simp] theorem syncW2R_ghostHs : (syncW2R j s).ghostHs = s.ghostHs + j := rfl
@[simp] theorem syncW2R_ghostTs : (syncW2R j s).ghostTs = s.ghostTs := rfl
@[simp] theorem syncW2R_schedule : (syncW2R j s).schedule = s.schedule := rfl
@[simp] theorem syncW2R_draws : (syncW2R j s).draws = s.draws := rfl

end syncW2R

section syncR2W

variable (j : Nat)

@[simp] theorem syncR2W_cfg : (syncR2W j s).cfg = s.cfg := rfl
@[simp] theorem syncR2W_mem : (syncR2W j s).mem = s.mem := rfl
@[simp] theorem syncR2W_head : (syncR2W j s).head = s.head := rfl
@[simp] theorem syncR2W_tail : (syncR2W j s).tail = s.tail := rfl
@[simp] theorem syncR2W_headSync : (syncR2W j s).headSync = s.headSync := rfl
@[simp] theorem syncR2W_tailSync : (syncR2W j s).tailSync = (s.tailSync + j) % s.cfg.N := rfl
@[simp] theorem syncR2W_cseq : (syncR2W j s).cseq = s.cseq := rfl
@[simp] theorem syncR2W_rdMax : (syncR2W j s).rdMax = s.rdMax := rfl
@[simp] theorem syncR2W_rdCnt : (syncR2W j s).rdCnt = s.rdCnt := rfl
@[simp] theorem syncR2W_wrTotal : (syncR2W j s).wrTotal = s.wrTotal := rfl
@[simp] theorem syncR2W_wrIdx : (syncR2W j s).wrIdx = s.wrIdx := rfl
@[simp] theorem syncR2W_txValid : (syncR2W j s).txValid = s.txValid := rfl
@[simp] theorem syncR2W_txData : (syncR2W j s).txData = s.txData := rfl
@[simp] theorem syncR2W_ovrCnt : (syncR2W j s).ovrCnt = s.ovrCnt := rfl
@[simp] theorem syncR2W_fault : (syncR2W j s).fault = s.fault := rfl
@[simp] theorem syncR2W_rxEn : (syncR2W j s).rxEn = s.rxEn := rfl
@[simp] theorem syncR2W_rxq : (syncR2W j s).rxq = s.rxq := rfl
@[simp] theorem syncR2W_cmdq : (syncR2W j s).cmdq = s.cmdq := rfl
@[simp] theorem syncR2W_respq : (syncR2W j s).respq = s.respq := rfl
@[simp] theorem syncR2W_hostOut : (syncR2W j s).hostOut = s.hostOut := rfl
@[simp] theorem syncR2W_hostSrc : (syncR2W j s).hostSrc = s.hostSrc := rfl
@[simp] theorem syncR2W_txLog : (syncR2W j s).txLog = s.txLog := rfl
@[simp] theorem syncR2W_history : (syncR2W j s).history = s.history ++ [.syncR2W j] := rfl
@[simp] theorem syncR2W_ghostH : (syncR2W j s).ghostH = s.ghostH := rfl
@[simp] theorem syncR2W_ghostT : (syncR2W j s).ghostT = s.ghostT := rfl
@[simp] theorem syncR2W_ghostHs : (syncR2W j s).ghostHs = s.ghostHs := rfl
@[simp] theorem syncR2W_ghostTs : (syncR2W j s).ghostTs = s.ghostTs + j := rfl
@[simp] theorem syncR2W_schedule : (syncR2W j s).schedule = s.schedule := rfl
@[simp] theorem syncR2W_draws : (syncR2W j s).draws = s.draws := rfl

end syncR2W

section finishRead

variable (r : StopReason)

@[simp] theorem finishRead_cfg : (finishRead r s).cfg = s.cfg := rfl
@[simp] theorem finishRead_mem : (finishRead r s).mem = s.mem := rfl
@[simp] theorem finishRead_head : (finishRead r s).head = s.head := rfl
@[simp] theorem finishRead_tail : (finishRead r s).tail = s.tail := rfl
@[simp] theorem finishRead_headSync : (finishRead r s).headSync = s.headSync := rfl
@[simp] theorem finishRead_tailSync : (finishRead r s).tailSync = s.tailSync := rfl
@[simp] theorem finishRead_cseq : (finishRead r s).cseq = .idle := rfl
@[simp] theorem finishRead_rdMax : (finishRead r s).rdMax = 0 := rfl
@[simp] theorem finishRead_rdCnt : (finishRead r s).rdCnt = 0 := rfl
@[simp] theorem finishRead_wrTotal : (finishRead r s).wrTotal = s.wrTotal := rfl
@[simp] theorem finishRead_wrIdx : (finishRead r s).wrIdx = s.wrIdx := rfl
@[simp] theorem finishRead_txValid : (finishRead r s).txValid = s.txValid := rfl
@[simp] theorem finishRead_txData : (finishRead r s).txData = s.txData := rfl
@[simp] theorem finishRead_ovrCnt : (finishRead r s).ovrCnt = s.ovrCnt := rfl
@[simp] theorem finishRead_fault : (finishRead r s).fault = s.fault := rfl
@[simp] theorem finishRead_rxEn : (finishRead r s).rxEn = s.rxEn := rfl
@[simp] theorem finishRead_rxq : (finishRead r s).rxq = s.rxq := rfl
@[simp] theorem finishRead_cmdq : (finishRead r s).cmdq = s.cmdq := rfl
@[simp] theorem finishRead_respq : (finishRead r s).respq = s.respq ++ [responseWord .ok s.rdCnt] := rfl
@[simp] theorem finishRead_hostOut : (finishRead r s).hostOut = s.hostOut := rfl
@[simp] theorem finishRead_hostSrc : (finishRead r s).hostSrc = s.hostSrc := rfl
@[simp] theorem finishRead_txLog : (finishRead r s).txLog = s.txLog := rfl
@[simp] theorem finishRead_history : (finishRead r s).history = s.history ++ [.readStop r s.rdCnt] ++ [.resp (responseWord .ok s.rdCnt)] := rfl
@[simp] theorem finishRead_ghostH : (finishRead r s).ghostH = s.ghostH := rfl
@[simp] theorem finishRead_ghostT : (finishRead r s).ghostT = s.ghostT := rfl
@[simp] theorem finishRead_ghostHs : (finishRead r s).ghostHs = s.ghostHs := rfl
@[simp] theorem finishRead_ghostTs : (finishRead r s).ghostTs = s.ghostTs := rfl
@[simp] theorem finishRead_schedule : (finishRead r s).schedule = s.schedule := rfl
@[simp] theorem finishRead_draws : (finishRead r s).draws = s.draws := rfl

end finishRead

section finishWrite

@[simp] theorem finishWrite_cfg : (finishWrite s).cfg = s.cfg := rfl
@[simp] theorem finishWrite_mem : (finishWrite s).mem = s.mem := rfl
@[simp] theorem finishWrite_head : (finishWrite s).head = s.head := rfl
@[simp] theorem finishWrite_tail : (finishWrite s).tail = s.tail := rfl
@[simp] theorem finishWrite_headSync : (finishWrite s).headSync = s.headSync := rfl
@[simp] theorem finishWrite_tailSync : (finishWrite s).tailSync = s.tailSync := rfl
@[simp] theorem finishWrite_cseq : (finishWrite s).cseq = .idle := rfl
@[simp] theorem finishWrite_rdMax : (finishWrite s).rdMax = s.rdMax := rfl
@[simp] theorem finishWrite_rdCnt : (finishWrite s).rdCnt = s.rdCnt := rfl
@[simp] theorem finishWrite_wrTotal : (finishWrite s).wrTotal = 0 := rfl
@[simp] theorem finishWrite_wrIdx : (finishWrite s).wrIdx = 0 := rfl
@[simp] theorem finishWrite_txValid : (finishWrite s).txValid = s.txValid := rfl
@[simp] theorem finishWrite_txData : (finishWrite s).txData = s.txData := rfl
@[simp] theorem finishWrite_ovrCnt : (finishWrite s).ovrCnt = s.ovrCnt := rfl
@[simp] theorem finishWrite_fault : (finishWrite s).fault = s.fault := rfl
@[simp] theorem finishWrite_rxEn : (finishWrite s).rxEn = s.rxEn := rfl
@[simp] theorem finishWrite_rxq : (finishWrite s).rxq = s.rxq := rfl
@[simp] theorem finishWrite_cmdq : (finishWrite s).cmdq = s.cmdq := rfl
@[simp] theorem finishWrite_respq : (finishWrite s).respq = s.respq ++ [responseWord .ok s.wrTotal] := rfl
@[simp] theorem finishWrite_hostOut : (finishWrite s).hostOut = s.hostOut := rfl
@[simp] theorem finishWrite_hostSrc : (finishWrite s).hostSrc = s.hostSrc := rfl
@[simp] theorem finishWrite_txLog : (finishWrite s).txLog = s.txLog := rfl
@[simp] theorem finishWrite_history : (finishWrite s).history = s.history ++ [.writeDone s.wrTotal] ++ [.resp (responseWord .ok s.wrTotal)] := rfl
@[simp] theorem finishWrite_ghostH : (finishWrite s).ghostH = s.ghostH := rfl
@[simp] theorem finishWrite_ghostT : (finishWrite s).ghostT = s.ghostT := rfl
@[simp] theorem finishWrite_ghostHs : (finishWrite s).ghostHs = s.ghostHs := rfl
@[simp] theorem finishWrite_ghostTs : (finishWrite s).ghostTs = s.ghostTs := rfl
@[simp] theorem finishWrite_schedule : (finishWrite s).schedule = s.schedule := rfl
@[simp] theorem finishWrite_draws : (finishWrite s).draws = s.draws := rfl

end finishWrite

section takeMove

@[simp] theorem takeMove_cfg : (takeMove s).cfg = s.cfg := by unfold takeMove; split <;> rfl
@[simp] theorem takeMove_mem : (takeMove s).mem = s.mem := by unfold takeMove; split <;> rfl
@[simp] theorem takeMove_head : (takeMove s).head = s.head := by unfold takeMove; split <;> rfl
@[simp] theorem takeMove_tail : (takeMove s).tail = s.tail := by unfold takeMove; split <;> rfl
@[simp] theorem takeMove_headSync : (takeMove s).headSync = s.headSync := by unfold takeMove; split <;> rfl
@[simp] theorem takeMove_tailSync : (takeMove s).tailSync = s.tailSync := by unfold takeMove; split <;> rfl
@[simp] theorem takeMove_cseq : (takeMove s).cseq = s.cseq := by unfold takeMove; split <;> rfl
@[simp] theorem takeMove_rdMax : (takeMove s).rdMax = s.rdMax := by unfold takeMove; split <;> rfl
@[simp] theorem takeMove_rdCnt : (takeMove s).rdCnt = s.rdCnt := by unfold takeMove; split <;> rfl
@[simp] theorem takeMove_wrTotal : (takeMove s).wrTotal = s.wrTotal := by unfold takeMove; split <;> rfl
@[simp] theorem takeMove_wrIdx : (takeMove s).wrIdx = s.wrIdx := by unfold takeMove; split <;> rfl
@[simp] theorem takeMove_txValid : (takeMove s).txValid = s.txValid := by unfold takeMove; split <;> rfl
@[simp] theorem takeMove_txData : (takeMove s).txData = s.txData := by unfold takeMove; split <;> rfl
@[simp] theorem takeMove_ovrCnt : (takeMove s).ovrCnt = s.ovrCnt := by unfold takeMove; split <;> rfl
@[simp] theorem takeMove_fault : (takeMove s).fault = s.fault := by unfold takeMove; split <;> rfl
@[simp] theorem takeMove_rxEn : (takeMove s).rxEn = s.rxEn := by unfold takeMove; split <;> rfl
@[simp] theorem takeMove_rxq : (takeMove s).rxq = s.rxq := by unfold takeMove; split <;> rfl
@[simp] theorem takeMove_cmdq : (takeMove s).cmdq = s.cmdq := by unfold takeMove; split <;> rfl
@[simp] theorem takeMove_respq : (takeMove s).respq = s.respq := by unfold takeMove; split <;> rfl
@[simp] theorem takeMove_hostOut : (takeMove s).hostOut = s.hostOut := by unfold takeMove; split <;> rfl
@[simp] theorem takeMove_hostSrc : (takeMove s).hostSrc = s.hostSrc := by unfold takeMove; split <;> rfl
@[simp] theorem takeMove_txLog : (takeMove s).txLog = s.txLog := by unfold takeMove; split <;> rfl
@[simp] theorem takeMove_history : (takeMove s).history = s.history := by unfold takeMove; split <;> rfl
@[simp] theorem takeMove_ghostH : (takeMove s).ghostH = s.ghostH := by unfold takeMove; split <;> rfl
@[simp] theorem takeMove_ghostT : (takeMove s).ghostT = s.ghostT := by unfold takeMove; split <;> rfl
@[simp] theorem takeMove_ghostHs : (takeMove s).ghostHs = s.ghostHs := by unfold takeMove; split <;> rfl
@[simp] theorem takeMove_ghostTs : (takeMove s).ghostTs = s.ghostTs := by unfold takeMove; split <;> rfl

end takeMove

end Sys2Proof.Machine
end

