-- ==== Sys2Proof/Laws/Ops.lean ====
section
/-! SUPPORT. What the shared operations can do, once each: RBMEM's reads and writes, the removal, the append to HOSTOUT,
and the views of a pointer under the updates. -/

namespace Sys2Proof.Machine

@[simp] theorem read_write_same (m : Memory) (a : Nat) (v : Byte) :
    Memory.read (Memory.write m a v) a = some v := by
  induction m with
  | nil => simp [Memory.write, Memory.read]
  | cons c rest ih =>
    obtain ⟨x, w⟩ := c
    simp only [Memory.write]
    split
    · simp [Memory.read]
    · split
      · simp [Memory.read]
      · rename_i h1 h2
        simp [Memory.read, h2, ih]

theorem read_write_other (m : Memory) {a b : Nat} (v : Byte) (h : b ≠ a) :
    Memory.read (Memory.write m a v) b = Memory.read m b := by
  induction m with
  | nil => simp [Memory.write, Memory.read, h]
  | cons c rest ih =>
    obtain ⟨x, w⟩ := c
    simp only [Memory.write]
    split
    · simp [Memory.read, h]
    · split
      · subst x; simp [Memory.read, h]
      · simp only [Memory.read, ih]

/-- What a listed entry of a written memory is. -/
theorem mem_write {m : Memory} {a : Nat} {v : Byte} {p : Host.Cell} (h : p ∈ Memory.write m a v) :
    p = (a, v) ∨ p ∈ m := by
  induction m with
  | nil => simpa [Memory.write] using h
  | cons c rest ih =>
    obtain ⟨x, w⟩ := c
    simp only [Memory.write] at h
    split at h
    · simpa using h
    · split at h
      · rcases List.mem_cons.1 h with h | h
        · exact .inl h
        · exact .inr (List.mem_cons_of_mem _ h)
      · rcases List.mem_cons.1 h with h | h
        · exact .inr (h ▸ List.mem_cons_self)
        · exact (ih h).imp id (List.mem_cons_of_mem _)

/-- A write keeps the canonical form. -/
theorem write_wf {m : Memory} (h : Memory.wf m) (a : Nat) (v : Byte) : Memory.wf (Memory.write m a v) := by
  induction m with
  | nil => simp [Memory.write, Memory.wf]
  | cons c rest ih =>
    obtain ⟨x, w⟩ := c
    have hc := List.pairwise_cons.1 h
    simp only [Memory.write]
    split
    · rename_i hlt
      refine List.pairwise_cons.2 ⟨fun p hp => ?_, h⟩
      rcases List.mem_cons.1 hp with rfl | hp
      · exact hlt
      · exact Nat.lt_trans hlt (hc.1 p hp)
    · split
      · subst x
        exact List.pairwise_cons.2 ⟨fun p hp => hc.1 p hp, hc.2⟩
      · refine List.pairwise_cons.2 ⟨fun p hp => ?_, ih hc.2⟩
        rcases mem_write hp with rfl | hp
        · show x < a
          omega
        · exact hc.1 p hp

/-- A write of a slot below `n` lists only slots below `n`. -/
theorem write_below {m : Memory} {n : Nat} (h : Memory.below m n) {a : Nat} (ha : a < n) (v : Byte) :
    Memory.below (Memory.write m a v) n := by
  intro p hp
  rcases mem_write hp with rfl | hp
  · exact ha
  · exact h p hp

theorem reset_memory_wf : Memory.wf State.reset.mem := List.Pairwise.nil

/-- What a removal can do (40_ring_buffer.md R104). -/
theorem removeByte_cases (s : State) :
    (removeByte s = .empty ∧ emptyR s = true) ∨
    (removeByte s = .unwritten ∧ emptyR s = false ∧ Memory.read s.mem s.tail = none) ∨
    (∃ b, removeByte s = .byte b { s with tail := inc s.cfg s.tail, ghostT := s.ghostT + 1 } ∧
      emptyR s = false ∧ Memory.read s.mem s.tail = some b) := by
  unfold removeByte
  cases he : emptyR s
  · cases hr : Memory.read s.mem s.tail
    · exact .inr (.inl (by simp))
    · exact .inr (.inr ⟨_, by simp, rfl, rfl⟩)
  · exact .inl (by simp)

/-- What an append to HOSTOUT can do (41_line_reader.md R142). -/
theorem appendOut_cases (v : Byte) (s : State) :
    (appendOut v s = none ∧ s.hostOut.length ≤ s.rdCnt.toNat) ∨
    (appendOut v s = some { s with hostOut := s.hostOut.set s.rdCnt.toNat v, rdCnt := s.rdCnt + 1 } ∧
      s.rdCnt.toNat < s.hostOut.length) := by
  unfold appendOut
  split
  · exact .inr ⟨rfl, by assumption⟩
  · exact .inl ⟨rfl, by omega⟩

/-- What a READ step does after the byte (R142). -/
theorem afterByte_cases (b : Byte) (s : State) :
    (b = CR ∧ afterByte b s = finishRead .cr s) ∨
    (b ≠ CR ∧ s.rdCnt = s.rdMax ∧ afterByte b s = finishRead .max s) ∨
    (b ≠ CR ∧ s.rdCnt ≠ s.rdMax ∧ afterByte b s = s) := by
  unfold afterByte
  split
  · exact .inl ⟨by assumption, rfl⟩
  · split
    · exact .inr (.inl ⟨by assumption, by assumption, rfl⟩)
    · exact .inr (.inr ⟨by assumption, by assumption, rfl⟩)

/-- What a READ step leaves alone after the byte. -/
theorem afterByte_frame (b : Byte) (s : State) :
    afterByte b s =
      { s with
        cseq := (afterByte b s).cseq, rdMax := (afterByte b s).rdMax, rdCnt := (afterByte b s).rdCnt
        respq := (afterByte b s).respq, history := (afterByte b s).history } := by
  rcases afterByte_cases b s with ⟨-, h⟩ | ⟨-, -, h⟩ | ⟨-, -, h⟩ <;> rw [h] <;> rfl

/-- When SYNC_W2R may choose `j` (40_ring_buffer.md R110). -/
theorem canW2R_iff (j : Nat) (s : State) :
    canW2R j s = true ↔
      s.cfg.syncModel = .lagged ∧ s.headSync ≠ s.head ∧ 1 ≤ j ∧ j ≤ ptrDist s.cfg s.headSync s.head := by
  simp only [canW2R, Bool.and_eq_true, beq_iff_eq, bne_iff_ne, decide_eq_true_eq, and_assoc]
  rfl

/-- When SYNC_R2W may choose `j` (R111). -/
theorem canR2W_iff (j : Nat) (s : State) :
    canR2W j s = true ↔
      s.cfg.syncModel = .lagged ∧ s.tailSync ≠ s.tail ∧ 1 ≤ j ∧ j ≤ ptrDist s.cfg s.tailSync s.tail := by
  simp only [canR2W, Bool.and_eq_true, beq_iff_eq, bne_iff_ne, decide_eq_true_eq, and_assoc]
  rfl

@[simp] theorem crToLf_of_ne {b : Byte} (h : b ≠ CR) : crToLf b = b := by simp [crToLf, h]

@[simp] theorem crToLf_CR : crToLf CR = LF := rfl

@[simp] theorem putsSinceInit_append (h l : List Event) :
    putsSinceInit (h ++ l) = l.foldl putsStep (putsSinceInit h) := by simp [putsSinceInit]

@[simp] theorem removedSinceInit_append (h l : List Event) :
    removedSinceInit (h ++ l) = l.foldl removedStep (removedSinceInit h) := by simp [removedSinceInit]

@[simp] theorem lastReadLog_append (h l : List Event) :
    lastReadLog (h ++ l) = l.foldl readLogStep (lastReadLog h) := by simp [lastReadLog]

@[simp] theorem txSinceWrite_append (h l : List Event) :
    txSinceWrite (h ++ l) = l.foldl txStep (txSinceWrite h) := by simp [txSinceWrite]

@[simp] theorem responsesOf_append (h l : List Event) :
    responsesOf (h ++ l) = responsesOf h ++ responsesOf l := by simp [responsesOf]

@[simp] theorem transmittedOf_append (h l : List Event) :
    transmittedOf (h ++ l) = transmittedOf h ++ transmittedOf l := by simp [transmittedOf]

@[simp] theorem responsesOf_cons (e : Event) (l : List Event) :
    responsesOf (e :: l) = (eventResponse e).toList ++ responsesOf l := by cases e <;> rfl

@[simp] theorem responsesOf_nil : responsesOf [] = [] := rfl

@[simp] theorem transmittedOf_cons (e : Event) (l : List Event) :
    transmittedOf (e :: l) = (eventTransmitted e).toList ++ transmittedOf l := by cases e <;> rfl

@[simp] theorem transmittedOf_nil : transmittedOf [] = [] := rfl

end Sys2Proof.Machine
end

