-- ==== Sys2Proof/Laws/Words.lean ====
section
/-! SUPPORT. The fields of command and response words (30_encoding.md R70, R80). -/

namespace Sys2Proof

/-- The number a word of two fields is (R70). -/
theorem toNat_fields (op : BitVec 4) (x : Cnt) : (op ++ x : Word).toNat = op.toNat * 4096 + x.toNat := by
  have h := BitVec.toNat_append op x
  rw [← Nat.shiftLeft_add_eq_or_of_lt x.isLt, Nat.shiftLeft_eq] at h
  exact h

theorem toNat_opField (w : Word) : (opField w).toNat = w.toNat / 4096 := by
  have := w.isLt
  simp [opField, Nat.shiftRight_eq_div_pow]
  omega

theorem toNat_xField (w : Word) : (xField w).toNat = w.toNat % 4096 := by simp [xField]

/-- The operation field of a word built from its fields. -/
theorem opField_append (op : BitVec 4) (x : Cnt) : opField (op ++ x) = op := by
  apply BitVec.eq_of_toNat_eq
  have := x.isLt
  rw [toNat_opField, toNat_fields]
  omega

/-- The operand field of a word built from its fields. -/
theorem xField_append (op : BitVec 4) (x : Cnt) : xField (op ++ x) = x := by
  apply BitVec.eq_of_toNat_eq
  have := x.isLt
  rw [toNat_xField, toNat_fields]
  omega

/-- A word is its two fields (R70). -/
theorem word_eq_fields (w : Word) : w = opField w ++ xField w := by
  apply BitVec.eq_of_toNat_eq
  rw [toNat_fields, toNat_opField, toNat_xField]
  omega

end Sys2Proof

namespace Sys2Proof.Machine

/-- An OK response is its value (R81). -/
theorem responseWord_ok (v : Cnt) : responseWord .ok v = v.setWidth 16 := by
  apply BitVec.eq_of_toNat_eq
  have := v.isLt
  have h : (responseWord .ok v).toNat = 0 * 4096 + v.toNat := toNat_fields 0 v
  simp [h]
  omega

theorem responseWord_empty : responseWord .empty 0 = 0x8000 := by decide

theorem responseWord_illegal : responseWord .illegal 0 = 0xC000 := by decide

/-- A GET response is its byte (R81). -/
theorem responseWord_byte (b : Byte) : responseWord .ok (zext12 b) = b.setWidth 16 := by
  rw [responseWord_ok]
  apply BitVec.eq_of_toNat_eq
  simp [zext12]

end Sys2Proof.Machine
end

