-- ==== Sys2Proof/Laws/PerInstr.lean ====
section
/-! SUPPORT. The fields of every operation's word, one lemma per constructor (30_encoding.md R70 to R78). -/

namespace Sys2Proof

/-- The `op` value of an operation (R71). -/
def Instr.op : Instr → BitVec 4
  | .nop => 0x0
  | .init => 0x1
  | .put _ => 0x2
  | .get => 0x3
  | .read _ => 0x4
  | .write _ => 0x5

/-- The operand field of an operation (R72 to R78). -/
def Instr.operand : Instr → Cnt
  | .nop => 0
  | .init => 0
  | .put b => b.setWidth 12
  | .get => 0
  | .read m => m
  | .write c => c

namespace Laws.OpField

/-- The word of an operation is its `op` value above its operand (R70). -/
def Statement (i : Instr) : Prop := encode i = i.op ++ i.operand

theorem nop : Statement .nop := rfl

theorem init : Statement .init := rfl

theorem put (b : Byte) : Statement (.put b) := by
  apply BitVec.eq_of_getLsbD_eq
  intro i hi
  have h : (0x2#4 ++ b.setWidth 12 : Word).getLsbD i =
      if i < 12 then (b.setWidth 12).getLsbD i else (0x2#4).getLsbD (i - 12) := BitVec.getLsbD_append
  show (0x2000 ||| b.setWidth 16 : Word).getLsbD i = (0x2#4 ++ b.setWidth 12 : Word).getLsbD i
  rw [h]
  interval_cases i <;> simp

theorem get : Statement .get := rfl

theorem read (m : Cnt) : Statement (.read m) := by
  apply BitVec.eq_of_getLsbD_eq
  intro i hi
  have h : (0x4#4 ++ m : Word).getLsbD i = if i < 12 then m.getLsbD i else (0x4#4).getLsbD (i - 12) :=
    BitVec.getLsbD_append
  show (0x4000 ||| m.setWidth 16 : Word).getLsbD i = (0x4#4 ++ m : Word).getLsbD i
  rw [h]
  interval_cases i <;> simp

theorem write (c : Cnt) : Statement (.write c) := by
  apply BitVec.eq_of_getLsbD_eq
  intro i hi
  have h : (0x5#4 ++ c : Word).getLsbD i = if i < 12 then c.getLsbD i else (0x5#4).getLsbD (i - 12) :=
    BitVec.getLsbD_append
  show (0x5000 ||| c.setWidth 16 : Word).getLsbD i = (0x5#4 ++ c : Word).getLsbD i
  rw [h]
  interval_cases i <;> simp

end Laws.OpField

end Sys2Proof
end

