-- ==== Sys2Proof/Laws/Pointers.lean ====
section
/-! SUPPORT. The status values as conditions on the ghost counters, where the pointer order holds (10_state.md R26 to R28,
40_ring_buffer.md R120, R121), and what the pointer order depends on. -/

namespace Sys2Proof.Machine

variable {s t : State}

/-- The read side sees the buffer empty exactly where no removal is left that it knows of. -/
theorem emptyR_iff (h : PointerOrder s) : emptyR s = true ↔ s.ghostT = ghostHsView s := by
  have hN := two_le_N h.cfg
  have h1 := h.tsT
  have h2 := h.tHs
  have h3 := h.hsH
  have h4 := h.hTs
  simp only [emptyR, beq_iff_eq, h.tail, h.headView]
  exact ⟨eq_of_mod_eq (by omega) (by omega), fun e => by rw [e]⟩

/-- The write side sees the buffer full exactly where N − 1 bytes are stored as far as it knows. -/
theorem fullW_iff (h : PointerOrder s) : fullW s = true ↔ s.ghostH = ghostTsView s + s.cfg.N - 1 := by
  have hN := two_le_N h.cfg
  have h1 := h.tsT
  have h2 := h.tHs
  have h3 := h.hsH
  have h4 := h.hTs
  simp only [fullW, beq_iff_eq, h.head, h.tailView, inc_mod]
  constructor
  · intro e
    by_contra hc
    have := eq_of_mod_eq (n := s.cfg.N) (a := ghostTsView s) (b := s.ghostH + 1) (by omega) (by omega) e.symm
    omega
  · intro e
    rw [e, show ghostTsView s + s.cfg.N - 1 + 1 = ghostTsView s + s.cfg.N by omega, Nat.add_mod_right]

/-- In a settled state the copies' counts are the live ones (00_scope.md R19). -/
theorem settled_views (h : PointerOrder s) (hs : settled s = true) :
    ghostHsView s = s.ghostH ∧ ghostTsView s = s.ghostT := by
  have hN := two_le_N h.cfg
  have h1 := h.tsT
  have h2 := h.tHs
  have h3 := h.hsH
  have h4 := h.hTs
  simp only [settled, Bool.and_eq_true, beq_iff_eq, h.head, h.tail, h.headView, h.tailView] at hs
  exact ⟨eq_of_mod_eq (by omega) (by omega) hs.1, eq_of_mod_eq (by omega) (by omega) hs.2⟩

/-- Where a removal can succeed, slot `tail` is not slot `head` (60_exceptions.md R206). -/
theorem tail_ne_head (h : PointerOrder s) (he : emptyR s = false) : s.tail ≠ s.head := by
  have hne : s.ghostT ≠ ghostHsView s := fun e => by simp [(emptyR_iff h).2 e] at he
  have hN := two_le_N h.cfg
  have h1 := h.tsT
  have h2 := h.tHs
  have h3 := h.hsH
  have h4 := h.hTs
  rw [h.tail, h.head]
  intro e
  have := eq_of_mod_eq (n := s.cfg.N) (a := s.ghostT) (b := s.ghostH) (by omega) (by omega) e
  omega

/-- The pointer order reads only the parameters, the pointers, the copies and the counters. -/
theorem pointerOrder_congr (h : PointerOrder s) (hc : t.cfg = s.cfg) (hh : t.head = s.head) (ht : t.tail = s.tail)
    (hhs : t.headSync = s.headSync) (hts : t.tailSync = s.tailSync) (gH : t.ghostH = s.ghostH)
    (gT : t.ghostT = s.ghostT) (gHs : t.ghostHs = s.ghostHs) (gTs : t.ghostTs = s.ghostTs) : PointerOrder t := by
  have e1 : headView t = headView s := by simp [headView, hc, hh, hhs]
  have e2 : tailView t = tailView s := by simp [tailView, hc, ht, hts]
  have e3 : ghostHsView t = ghostHsView s := by simp [ghostHsView, hc, gH, gHs]
  have e4 : ghostTsView t = ghostTsView s := by simp [ghostTsView, hc, gT, gTs]
  obtain ⟨a, b, c, d, e, f, g, i, j⟩ := h
  constructor <;> simp only [e1, e2, e3, e4, hc, hh, ht, gH, gT] <;> assumption

end Sys2Proof.Machine
end

