-- ==== Sys2Proof/Laws/Step.lean ====
section
/-! SUPPORT. Everything one step can do, said once: a step from `s` that answers a next state takes a move off the
schedule, or draws one, and then does one of the things `StepCase` lists. -/

namespace Sys2Proof.Machine

/-- The state with the first command word taken. -/
abbrev State.popCmd (s : State) (rest : List Word) : State := { s with cmdq := rest }

/-- The state with the first received byte taken. -/
abbrev State.popRx (s : State) (rest : List Byte) : State := { s with rxq := rest }

/-- The state with the byte at `tail` removed. -/
abbrev State.removed (s : State) : State := { s with tail := inc s.cfg s.tail, ghostT := s.ghostT + 1 }

/-- The state with `v` appended to HOSTOUT. -/
abbrev State.appended (s : State) (v : Byte) : State :=
  { s with hostOut := s.hostOut.set s.rdCnt.toNat v, rdCnt := s.rdCnt + 1 }

/-- What each move can do to a state. -/
inductive StepCase (s : State) : Move → State → Prop where
  | pass (m : Move) (h : canStep m s = false) : StepCase s m s
  | rxEn (on : Bool) : StepCase s (.rxEn on) { s with rxEn := on }
  | receive (bytes : List Byte) : StepCase s (.receive bytes) { s with rxq := s.rxq ++ bytes }
  | submit (words : List Word) : StepCase s (.submit words) { s with cmdq := s.cmdq ++ words }
  | supplyOut (buffer : List Byte) (h : s.cseq ≠ .read) : StepCase s (.supplyOut buffer) { s with hostOut := buffer }
  | supplySrc (buffer : List Byte) (h : s.cseq ≠ .write) : StepCase s (.supplySrc buffer) { s with hostSrc := buffer }
  | w2r (j : Nat) (h : canW2R j s = true) : StepCase s (.w2r j) (syncW2R j s)
  | w2rAll (h : canW2R (w2rDist s) s = true) : StepCase s .w2rAll (syncW2R (w2rDist s) s)
  | r2w (j : Nat) (h : canR2W j s = true) : StepCase s (.r2w j) (syncR2W j s)
  | r2wAll (h : canR2W (r2wDist s) s = true) : StepCase s .r2wAll (syncR2W (r2wDist s) s)
  | accept (h : s.txValid = true) : StepCase s .accept (txAccept s)
  | putFull (b : Byte) (rest : List Byte) (hq : s.rxq = b :: rest) (hen : s.rxEn = true) (h : fullW s = true) :
      StepCase s .produce (record (.put b .full)
        { s.popRx rest with ovrCnt := if s.cfg.overrunCounter then s.ovrCnt + 1 else s.ovrCnt })
  | putOk (b : Byte) (rest : List Byte) (hq : s.rxq = b :: rest) (hen : s.rxEn = true) (h : fullW s = false) :
      StepCase s .produce (record (.put b .ok)
        { s.popRx rest with
          mem := Memory.write s.mem s.head b, head := inc s.cfg s.head, ghostH := s.ghostH + 1 })
  | illegal (w : Word) (rest : List Word) (hq : s.cmdq = w :: rest) (hi : s.cseq = .idle) (r : Reject)
      (h : decodeC w = .illegal r) : StepCase s .command (illegalC w (s.popCmd rest))
  | nop (w : Word) (rest : List Word) (hq : s.cmdq = w :: rest) (hi : s.cseq = .idle)
      (h : decodeC w = .instr .nop) : StepCase s .command (respond .ok 0 (s.popCmd rest))
  | initRace (w : Word) (rest : List Word) (hq : s.cmdq = w :: rest) (hi : s.cseq = .idle)
      (h : decodeC w = .instr .init) (hen : s.rxEn = true) : StepCase s .command (raiseFault .initRace (s.popCmd rest))
  | init (w : Word) (rest : List Word) (hq : s.cmdq = w :: rest) (hi : s.cseq = .idle)
      (h : decodeC w = .instr .init) (hen : s.rxEn = false) :
      StepCase s .command (respond .ok 0 (record .init (initBuffer (s.popCmd rest))))
  | getEmpty (w : Word) (rest : List Word) (hq : s.cmdq = w :: rest) (hi : s.cseq = .idle)
      (h : decodeC w = .instr .get) (he : emptyR s = true) :
      StepCase s .command (respond .empty 0 (record .getEmpty (s.popCmd rest)))
  | getUnwritten (w : Word) (rest : List Word) (hq : s.cmdq = w :: rest) (hi : s.cseq = .idle)
      (h : decodeC w = .instr .get) (he : emptyR s = false) (hr : Memory.read s.mem s.tail = none) :
      StepCase s .command (raiseFault .unwrittenSlot (s.popCmd rest))
  | getOk (w : Word) (rest : List Word) (hq : s.cmdq = w :: rest) (hi : s.cseq = .idle)
      (h : decodeC w = .instr .get) (he : emptyR s = false) (b : Byte) (hr : Memory.read s.mem s.tail = some b) :
      StepCase s .command (respond .ok (zext12 b) (record (.getOk b) (s.popCmd rest).removed))
  | readBounds (w : Word) (rest : List Word) (hq : s.cmdq = w :: rest) (hi : s.cseq = .idle) (m : Cnt)
      (h : decodeC w = .instr (.read m)) (hm : s.hostOut.length < m.toNat) :
      StepCase s .command (raiseFault .hostbufBounds (s.popCmd rest))
  | readZero (w : Word) (rest : List Word) (hq : s.cmdq = w :: rest) (hi : s.cseq = .idle)
      (h : decodeC w = .instr (.read 0)) :
      StepCase s .command (respond .ok 0 (record (.readStop .max 0) (record (.readStart 0) (s.popCmd rest))))
  | readStart (w : Word) (rest : List Word) (hq : s.cmdq = w :: rest) (hi : s.cseq = .idle) (m : Cnt)
      (h : decodeC w = .instr (.read m)) (hm : m.toNat ≤ s.hostOut.length) (h0 : m ≠ 0) :
      StepCase s .command (record (.readStart m) { s.popCmd rest with rdMax := m, rdCnt := 0, cseq := .read })
  | writeBounds (w : Word) (rest : List Word) (hq : s.cmdq = w :: rest) (hi : s.cseq = .idle) (c : Cnt)
      (h : decodeC w = .instr (.write c)) (hc : s.hostSrc.length < c.toNat) :
      StepCase s .command (raiseFault .hostbufBounds (s.popCmd rest))
  | writeZero (w : Word) (rest : List Word) (hq : s.cmdq = w :: rest) (hi : s.cseq = .idle)
      (h : decodeC w = .instr (.write 0)) :
      StepCase s .command (respond .ok 0 (record (.writeDone 0) (record (.writeStart 0) (s.popCmd rest))))
  | writeStart (w : Word) (rest : List Word) (hq : s.cmdq = w :: rest) (hi : s.cseq = .idle) (c : Cnt)
      (h : decodeC w = .instr (.write c)) (hc : c.toNat ≤ s.hostSrc.length) (h0 : c ≠ 0) :
      StepCase s .command (record (.writeStart c) { s.popCmd rest with wrTotal := c, wrIdx := 0, cseq := .write })
  | readEmpty (hr : s.cseq = .read) (he : emptyR s = true) : StepCase s .seqStep (finishRead .empty s)
  | readUnwritten (hr : s.cseq = .read) (he : emptyR s = false) (hm : Memory.read s.mem s.tail = none) :
      StepCase s .seqStep (raiseFault .unwrittenSlot s)
  | readNoRoom (hr : s.cseq = .read) (he : emptyR s = false) (b : Byte) (hm : Memory.read s.mem s.tail = some b)
      (hl : s.hostOut.length ≤ s.rdCnt.toNat) : StepCase s .seqStep (raiseFault .hostbufBounds s)
  | readByte (hr : s.cseq = .read) (he : emptyR s = false) (b : Byte) (hm : Memory.read s.mem s.tail = some b)
      (hl : s.rdCnt.toNat < s.hostOut.length) :
      StepCase s .seqStep (afterByte b (record (.readByte b (crToLf b)) (s.removed.appended (crToLf b))))
  | writeNoByte (hw : s.cseq = .write) (ht : s.txValid = false) (hi : s.wrIdx < s.wrTotal)
      (hb : s.hostSrc[s.wrIdx.toNat]? = none) : StepCase s .seqStep (raiseFault .hostbufBounds s)
  | writeOffer (hw : s.cseq = .write) (ht : s.txValid = false) (hi : s.wrIdx < s.wrTotal) (b : Byte)
      (hb : s.hostSrc[s.wrIdx.toNat]? = some b) : StepCase s .seqStep { emitTx b s with wrIdx := s.wrIdx + 1 }
  | writeDone (hw : s.cseq = .write) (ht : s.txValid = false) (hi : ¬ s.wrIdx < s.wrTotal) :
      StepCase s .seqStep (finishWrite s)

/-- A received byte's word decodes as the PUT of that byte (30_encoding.md R84). -/
theorem decodeP_rxWord (b : Byte) : decodeP (rxWord b) = .instr (.put b) := by
  have h1 : (rxWord b).extractLsb' 8 8 = 0x20 := by
    apply BitVec.eq_of_getLsbD_eq
    intro i hi
    interval_cases i <;> simp [rxWord]
  have h2 : (rxWord b).extractLsb' 0 8 = b := by
    apply BitVec.eq_of_getLsbD_eq
    intro i hi
    interval_cases i <;> simp [rxWord]
  simp [decodeP, h1, h2]

theorem perform_pass {m : Move} {s : State} (h : canStep m s = false) : perform m s = .next s := by
  simp [perform, h]

theorem perform_effect {m : Move} {s : State} (h : canStep m s = true) : perform m s = effect m s := by
  simp [perform, h]

/-- What the execution of a command word can do, its word taken. -/
theorem commandStep_cases {s t : State} (hi : s.cseq = .idle) (h : commandStep s = .next t) : StepCase s .command t := by
  unfold commandStep at h
  split at h
  · cases h; exact .pass _ (by simp_all [canStep])
  · rename_i w rest hq
    unfold consumerWord at h
    split at h
    · rename_i i hd
      cases i with
      | nop => cases h; exact .nop w rest hq hi hd
      | init =>
        simp only [exec, execInit] at h
        split at h <;> cases h
        · exact .initRace w rest hq hi hd (by assumption)
        · exact .init w rest hq hi hd (by simp_all)
      | put b =>
        exfalso
        revert hd
        unfold decodeC noOperand
        repeat (first | split | simp)
      | get =>
        simp only [exec, execGet] at h
        rcases removeByte_cases (s.popCmd rest) with ⟨hr, he⟩ | ⟨hr, he, hm⟩ | ⟨b, hr, he, hm⟩ <;>
          rw [hr] at h <;> cases h
        · exact .getEmpty w rest hq hi hd he
        · exact .getUnwritten w rest hq hi hd he hm
        · exact .getOk w rest hq hi hd he b hm
      | read m =>
        simp only [exec, execRead] at h
        split at h
        · cases h; exact .readBounds w rest hq hi m hd (by assumption)
        · split at h <;> cases h
          · subst m; exact .readZero w rest hq hi hd
          · exact .readStart w rest hq hi m hd (by simp_all) (by assumption)
      | write c =>
        simp only [exec, execWrite] at h
        split at h
        · cases h; exact .writeBounds w rest hq hi c hd (by assumption)
        · split at h <;> cases h
          · subst c; exact .writeZero w rest hq hi hd
          · exact .writeStart w rest hq hi c hd (by simp_all) (by assumption)
    · rename_i r hd
      cases h
      exact .illegal w rest hq hi r hd

/-- What a delivered byte can do. -/
theorem producerStep_cases {s t : State} (hen : s.rxEn = true) (h : producerStep s = .next t) : StepCase s .produce t := by
  unfold producerStep at h
  split at h
  · cases h; exact .pass _ (by simp_all [canStep])
  · rename_i b rest hq
    simp only [producerWord, decodeP_rxWord, exec, execPut] at h
    split at h <;> cases h
    · exact .putFull b rest hq hen (by assumption)
    · exact .putOk b rest hq hen (by simp_all [fullW, tailView])

/-- What a step of the READ in progress can do. -/
theorem readStep_cases {s : State} (hr : s.cseq = .read) : StepCase s .seqStep (readStep s) := by
  unfold readStep
  rcases removeByte_cases s with ⟨h, he⟩ | ⟨h, he, hm⟩ | ⟨b, h, he, hm⟩ <;> rw [h]
  · exact .readEmpty hr he
  · exact .readUnwritten hr he hm
  · rcases appendOut_cases (crToLf b) s.removed with ⟨ha, hl⟩ | ⟨ha, hl⟩ <;> simp only [State.removed] at ha hl <;>
      simp only [ha]
    · exact .readNoRoom hr he b hm hl
    · exact .readByte hr he b hm hl

/-- What a step of the WRITE in progress can do. -/
theorem writeStep_cases {s : State} (hw : s.cseq = .write) (ht : s.txValid = false) : StepCase s .seqStep (writeStep s) := by
  unfold writeStep
  split
  · split
    · exact .writeNoByte hw ht (by assumption) (by assumption)
    · exact .writeOffer hw ht (by assumption) _ (by assumption)
  · exact .writeDone hw ht (by assumption)

/-- Everything one scheduled move can do. -/
theorem perform_cases {m : Move} {s t : State} (h : perform m s = .next t) : StepCase s m t := by
  cases hc : canStep m s with
  | false => rw [perform_pass hc] at h; cases h; exact .pass _ hc
  | true =>
    rw [perform_effect hc] at h
    simp only [canStep, Bool.and_eq_true] at hc
    obtain ⟨-, hc⟩ := hc
    cases m <;> simp only [effect] at h
    case produce => exact producerStep_cases (by simp_all) h
    case command => exact commandStep_cases (by simp_all) h
    case seqStep =>
      cases h
      cases hs : s.cseq <;> simp_all only [canSeqStep, sequencerStep]
      · exact absurd hc (by simp)
      · exact readStep_cases hs
      · exact writeStep_cases hs (by simpa using hc)
    case w2r j => cases h; exact .w2r j hc
    case w2rAll => cases h; exact .w2rAll hc
    case r2w j => cases h; exact .r2w j hc
    case r2wAll => cases h; exact .r2wAll hc
    case accept => cases h; exact .accept hc
    case rxEn on => cases h; exact .rxEn on
    case receive bytes => cases h; exact .receive bytes
    case submit words => cases h; exact .submit words
    case supplyOut buffer => cases h; exact .supplyOut buffer (by simpa using hc)
    case supplySrc buffer => cases h; exact .supplySrc buffer (by simpa using hc)

/-- A step that answers a next state starts without the fault mark and does one of the cases, the move taken. -/
theorem step_cases {s t : State} (h : step s = .next t) : 
    s.fault = none ∧ ∃ m, nextMove s = m ∧ StepCase (takeMove s) m t := by
  unfold step scheduledStep at h
  split at h
  · cases h
  · exact ⟨by assumption, _, rfl, perform_cases h⟩

end Sys2Proof.Machine
end

