-- ==== Sys2Proof/Laws/Runs.lean ====
section
/-! SUPPORT. Runs: a run's step is one of the cases of `StepCase`, no step reads the model's own fields `schedule` and
`draws`, and when a synchroniser has a step (40_ring_buffer.md R110, R111; 70_reset_and_hazards.md R236). -/

namespace Sys2Proof.Machine

/-- The state with other values in the model's own two fields. -/
abbrev State.rescheduled (s : State) (ms : List Move) (d : Nat) : State := { s with schedule := ms, draws := d }

variable {s t : State} {ms : List Move} {d : Nat}

theorem afterByte_rescheduled (b : Byte) : afterByte b (s.rescheduled ms d) = (afterByte b s).rescheduled ms d := by
  simp only [afterByte]
  split
  · rfl
  · split <;> rfl

theorem removeByte_rescheduled :
    removeByte (s.rescheduled ms d) =
      match removeByte s with
      | .empty => .empty
      | .unwritten => .unwritten
      | .byte b t => .byte b (t.rescheduled ms d) := by
  have he : emptyR (s.rescheduled ms d) = emptyR s := rfl
  unfold removeByte
  rw [he]
  cases emptyR s
  · cases Memory.read s.mem s.tail <;> rfl
  · rfl

theorem appendOut_rescheduled (v : Byte) :
    appendOut v (s.rescheduled ms d) = (appendOut v s).map (State.rescheduled · ms d) := by
  simp only [appendOut]
  split <;> rfl

theorem readStep_rescheduled : readStep (s.rescheduled ms d) = (readStep s).rescheduled ms d := by
  unfold readStep
  rw [removeByte_rescheduled]
  rcases removeByte s with _ | _ | ⟨b, t⟩
  · rfl
  · rfl
  · simp only [appendOut_rescheduled]
    cases appendOut (crToLf b) t with
    | none => rfl
    | some u => exact afterByte_rescheduled (s := record (.readByte b (crToLf b)) u) b

theorem writeStep_rescheduled : writeStep (s.rescheduled ms d) = (writeStep s).rescheduled ms d := by
  unfold writeStep
  simp only
  split
  · cases s.hostSrc[s.wrIdx.toNat]? <;> rfl
  · rfl

theorem exec_rescheduled (i : Instr) (h : exec i s = .next t) :
    exec i (s.rescheduled ms d) = .next (t.rescheduled ms d) := by
  cases i <;> simp only [exec] at h ⊢
  case nop => cases h; rfl
  case init =>
    unfold execInit at h ⊢
    split at h <;> cases h <;> simp_all <;> rfl
  case put b =>
    have hf : fullW (s.rescheduled ms d) = fullW s := rfl
    unfold execPut at h ⊢
    rw [hf]
    split at h <;> cases h <;> simp_all <;> rfl
  case get =>
    unfold execGet at h ⊢
    rw [removeByte_rescheduled]
    rcases hb : removeByte s with _ | _ | ⟨b, u⟩ <;> rw [hb] at h <;> cases h <;> rfl
  case read m =>
    unfold execRead at h ⊢
    by_cases h1 : s.hostOut.length < m.toNat
    · rw [if_pos h1] at h ⊢; cases h; rfl
    · rw [if_neg h1] at h ⊢
      by_cases h2 : m = 0
      · rw [if_pos h2] at h ⊢; cases h; rfl
      · rw [if_neg h2] at h ⊢; cases h; rfl
  case write c =>
    unfold execWrite at h ⊢
    by_cases h1 : s.hostSrc.length < c.toNat
    · rw [if_pos h1] at h ⊢; cases h; rfl
    · rw [if_neg h1] at h ⊢
      by_cases h2 : c = 0
      · rw [if_pos h2] at h ⊢; cases h; rfl
      · rw [if_neg h2] at h ⊢; cases h; rfl

/-- What a move does depends on neither `schedule` nor `draws`, and no move writes them. -/
theorem perform_rescheduled (m : Move) (h : perform m s = .next t) :
    perform m (s.rescheduled ms d) = .next (t.rescheduled ms d) := by
  have hc : canStep m (s.rescheduled ms d) = canStep m s := rfl
  cases hp : canStep m s with
  | false =>
    rw [perform_pass hp] at h
    cases h
    exact perform_pass (hc.trans hp)
  | true =>
    rw [perform_effect hp] at h
    rw [perform_effect (hc.trans hp)]
    cases m <;> simp only [effect] at h ⊢ <;> try (cases h; rfl)
    case produce =>
      unfold producerStep at h ⊢
      simp only
      split at h
      · cases h; simp_all
      · simp_all only [producerWord, decodeP_rxWord]
        exact exec_rescheduled _ h
    case command =>
      unfold commandStep at h ⊢
      simp only
      split at h
      · cases h; simp_all
      · simp_all only
        unfold consumerWord at h ⊢
        split at h
        · exact exec_rescheduled _ h
        · cases h; rfl
    case seqStep =>
      cases h
      unfold sequencerStep
      cases s.cseq <;> simp only
      · exact congrArg _ readStep_rescheduled
      · exact congrArg _ writeStep_rescheduled

variable {mv : Nat → Move} {r : Nat → State}

/-- A run's step performs the move the run names. -/
theorem Run.perform (h : Run mv r) (k : Nat) : perform (mv k) { r k with schedule := [] } = .next (r (k + 1)) := by
  have hk := h k
  unfold step scheduledStep at hk
  split at hk
  · cases hk
  · exact hk

/-- No state of an infinite run carries the fault mark (10_state.md R35). -/
theorem Run.fault (h : Run mv r) (k : Nat) : (r k).fault = none := (step_cases (h k)).1

/-- Everything one step of a run can do. -/
theorem Run.stepCase (h : Run mv r) (k : Nat) : StepCase { r k with schedule := [] } (mv k) (r (k + 1)) :=
  perform_cases (h.perform k)

/-- SYNC_W2R has a step exactly while the read side does not know of every byte put (R110). -/
theorem w2r_canStep_iff (h : PointerOrder s) (hf : s.fault = none) :
    agentCanStep .syncW2R s ↔ ghostHsView s < s.ghostH := by
  have hN := two_le_N h.cfg
  have h1 := h.headView
  have h2 := h.hsH
  have h3 := h.tHs
  have h4 := h.tsT
  have h5 := h.hTs
  constructor
  · rintro ⟨m, ha, hc⟩
    refine Nat.lt_of_le_of_ne h2 fun e => ?_
    have hne : s.cfg.syncModel = .lagged ∧ s.headSync ≠ s.head := by
      cases m <;> simp only [agentOf, reduceCtorEq] at ha
      · exact (fun h => ⟨h.1, h.2.1⟩) ((canW2R_iff _ s).1 (by simpa [canStep, hf] using hc))
      · exact (fun h => ⟨h.1, h.2.1⟩) ((canW2R_iff _ s).1 (by simpa [canStep, hf] using hc))
    simp only [headView, hne.1] at h1
    exact hne.2 (by rw [h1, h.head, e])
  · intro hlt
    have hl : s.cfg.syncModel = .lagged := by
      cases hl : s.cfg.syncModel
      · rfl
      · simp [ghostHsView, hl] at hlt
    simp only [headView, ghostHsView, hl] at h1 h2 h3 hlt
    refine ⟨.w2r 1, rfl, ?_⟩
    simp only [canStep, hf, Bool.and_eq_true, canW2R_iff]
    refine ⟨rfl, hl, fun e => ?_, Nat.le_refl 1, ?_⟩
    · rw [h1, h.head] at e
      have := eq_of_mod_eq h2 (by omega) e
      omega
    · rw [h1, h.head, ptrDist_mod _ h2 (by omega)]
      omega

/-- SYNC_R2W has a step exactly while the write side does not know of every removal (R111). -/
theorem r2w_canStep_iff (h : PointerOrder s) (hf : s.fault = none) :
    agentCanStep .syncR2W s ↔ ghostTsView s < s.ghostT := by
  have hN := two_le_N h.cfg
  have h1 := h.tailView
  have h2 := h.hsH
  have h3 := h.tHs
  have h4 := h.tsT
  have h5 := h.hTs
  constructor
  · rintro ⟨m, ha, hc⟩
    refine Nat.lt_of_le_of_ne h4 fun e => ?_
    have hne : s.cfg.syncModel = .lagged ∧ s.tailSync ≠ s.tail := by
      cases m <;> simp only [agentOf, reduceCtorEq] at ha
      · exact (fun h => ⟨h.1, h.2.1⟩) ((canR2W_iff _ s).1 (by simpa [canStep, hf] using hc))
      · exact (fun h => ⟨h.1, h.2.1⟩) ((canR2W_iff _ s).1 (by simpa [canStep, hf] using hc))
    simp only [tailView, hne.1] at h1
    exact hne.2 (by rw [h1, h.tail, e])
  · intro hlt
    have hl : s.cfg.syncModel = .lagged := by
      cases hl : s.cfg.syncModel
      · rfl
      · simp [ghostTsView, hl] at hlt
    simp only [tailView, ghostTsView, hl] at h1 h4 h5 hlt
    refine ⟨.r2w 1, rfl, ?_⟩
    simp only [canStep, hf, Bool.and_eq_true, canR2W_iff]
    refine ⟨rfl, hl, fun e => ?_, Nat.le_refl 1, ?_⟩
    · rw [h1, h.tail] at e
      have := eq_of_mod_eq h4 (by omega) e
      omega
    · rw [h1, h.tail, ptrDist_mod _ h4 (by omega)]
      omega

end Sys2Proof.Machine
end

