-- ==== Sys2Proof/Machine/Adapter.lean ====
section
/-! DEFINITION. The host adapter's stubs (60_exceptions.md R199). They are outside the block: no port reaches them and they
carry no state. -/

namespace Sys2Proof.Machine

/-- The four stub calls of the host adapter (R199). -/
inductive StubCall where
  | close
  | seek
  | fstat
  | isatty
  deriving DecidableEq, Repr

/-- What a stub call returns. -/
inductive StubResult where
  /-- A fixed error value. -/
  | error (value : Int)
  /-- A truth value. -/
  | truth (b : Bool)
  deriving DecidableEq, Repr

/-- The stubs (R199): close, seek and fstat fail with STUB_ERR, isatty answers false, unconditionally. -/
def stubResult : StubCall → StubResult
  | .close => .error Config.stubErr
  | .seek => .error Config.stubErr
  | .fstat => .error Config.stubErr
  | .isatty => .truth false

end Sys2Proof.Machine
end

