-- ==== Sys2Proof/Machine/Assembler.lean ====
section
/-! DEFINITION. The assembler: lines, the word each spells, the move each schedules (30_encoding.md R87), and the
pseudo-instructions (R88). It loads a program as data: words for CMDQ, bytes for RXQ, moves for the schedule. -/

namespace Sys2Proof.Machine

/-- One assembler line `<agent>: <mnemonic> [operand]` (R87). -/
inductive Line where
  /-- `C:` a command of the consumer. -/
  | command (i : Instr)
  /-- `C: .word`: any raw word. -/
  | word (w : Word)
  /-- `P: PUT`: one received byte. -/
  | put (b : Byte)
  /-- `C: STEP`. -/
  | seqStep
  /-- `S: W2R j`. -/
  | w2r (j : Nat)
  /-- `S: W2R *`. -/
  | w2rAll
  /-- `S: R2W j`. -/
  | r2w (j : Nat)
  /-- `S: R2W *`. -/
  | r2wAll
  /-- `T: ACCEPT`. -/
  | accept
  /-- `H: RXEN 0|1`. -/
  | rxEn (on : Bool)
  /-- `H: OUT n`: OUT_LEN = n, filled with 0xEE. -/
  | out (n : Nat)
  /-- `H: SRC b0, b1, ...`. -/
  | src (bytes : List Byte)
  deriving DecidableEq, Repr

/-- The command word a line spells, if any (R87). -/
def lineWord : Line → Option Word
  | .command i => some (encode i)
  | .word w => some w
  | .put b => some (encode (.put b))
  | .seqStep => none
  | .w2r _ => none
  | .w2rAll => none
  | .r2w _ => none
  | .r2wAll => none
  | .accept => none
  | .rxEn _ => none
  | .out _ => none
  | .src _ => none

/-- The words a line presents on the consumer port. -/
def lineCommands : Line → List Word
  | .command i => [encode i]
  | .word w => [w]
  | _ => []

/-- The bytes a line has received. -/
def lineReceived : Line → List Byte
  | .put b => [b]
  | _ => []

/-- The move a line schedules (R87). -/
def lineMove : Line → Move
  | .command _ => .command
  | .word _ => .command
  | .put _ => .produce
  | .seqStep => .seqStep
  | .w2r j => .w2r j
  | .w2rAll => .w2rAll
  | .r2w j => .r2w j
  | .r2wAll => .r2wAll
  | .accept => .accept
  | .rxEn on => .rxEn on
  | .out n => .supplyOut (List.replicate n 0xEE)
  | .src bytes => .supplySrc bytes

/-- A program loaded at the host: its consumer words are CMDQ in order, its producer bytes RXQ in order
(95_test_vectors.md L3), and its lines the schedule. -/
def loadLines (p : List Line) (s : State) : State :=
  { s with
    cmdq := s.cmdq ++ p.flatMap lineCommands
    rxq := s.rxq ++ p.flatMap lineReceived
    schedule := s.schedule ++ p.map lineMove }

/-- `P: PUTS b0, ..., bk` (R88). -/
def puts (bytes : List Byte) : List Line := bytes.map .put

/-- `C: DRAIN k` (R88). -/
def drain (k : Nat) : List Line := List.replicate k (.command .get)

/-- `RETARGET_INIT` (R88, 70_reset_and_hazards.md R223). -/
def retargetInit : List Line := [.command .init, .rxEn true]

/-- `SETTLE` (R88). -/
def settle : List Line := [.w2rAll, .r2wAll]

/-- `C: READ! m` (R88): the command and m steps; a step left over after the response finds no READ and passes (log 3). -/
def readBang (m : Cnt) : List Line := .command (.read m) :: List.replicate m.toNat .seqStep

/-- `C: WRITE! c` (R88). -/
def writeBang (c : Cnt) : List Line :=
  if c = 0 then [.command (.write c)]
  else .command (.write c) :: (List.replicate c.toNat [.seqStep, .accept]).flatten ++ [.seqStep]

end Sys2Proof.Machine
end

