-- ==== Sys2Proof/Tests/Slice0.lean ====
section
/-! SUPPORT. Tests of one step each, with their expected values from spec/95_test_vectors.md or from the rule named; and a
witness for the hypotheses of every statement. -/

namespace Sys2Proof.Tests

open Sys2Proof Sys2Proof.Machine

/-- The next state of a step that answers one. -/
def after : Host.Outcome State Fault Refusal → Option State
  | .next s => some s
  | .fault _ => none
  | .refused _ => none

/-! ## WellFormed: a term each check refuses -/

theorem test_wf_refuses_put_on_consumer : (Instr.put 0x41).wf .consumer = false := by decide

theorem test_wf_refuses_get_on_producer : Instr.get.wf .producer = false := by decide

theorem test_wf_accepts_own_port : (Instr.put 0x41).wf .producer = true ∧ (Instr.read 4095).wf .consumer = true := by
  decide

theorem test_config_wf_refuses_one_slot : ({ Config.chosen with ptrW := 0 }).wf = false := by decide

theorem test_config_wf_refuses_one_stage : ({ Config.chosen with syncStages := 1 }).wf = false := by decide

theorem test_config_wf_accepts_chosen : Config.chosen.wf = true ∧ Config.chosen.N = 4 := by decide

/-! ## Decoding: words written bit by bit from 30_encoding.md R72 to R77, and L2.1's rejected words -/

theorem test_decode_nop : decodeC 0b0000000000000000 = .instr .nop := by decide

theorem test_decode_init : decodeC 0b0001000000000000 = .instr .init := by decide

theorem test_decode_put : decodeP 0b0010000001000001 = .instr (.put 0x41) := by decide

theorem test_decode_put_edges : decodeP 0x2000 = .instr (.put 0x00) ∧ decodeP 0x20FF = .instr (.put 0xFF) := by decide

theorem test_decode_get : decodeC 0b0011000000000000 = .instr .get := by decide

theorem test_decode_read : decodeC 0b0100000000001010 = .instr (.read 10) := by decide

theorem test_decode_write : decodeC 0b0101111111111111 = .instr (.write 4095) := by decide

theorem test_decode_rejects_consumer :
    decodeC 0x0800 = .illegal .nonzeroOperand ∧ decodeC 0x1001 = .illegal .nonzeroOperand ∧
      decodeC 0x3100 = .illegal .nonzeroOperand ∧ decodeC 0x2141 = .illegal .nonzeroOperand ∧
      decodeC 0x2041 = .illegal .producerOnly ∧ decodeC 0x6000 = .illegal .reservedOp ∧
      decodeC 0xFFFF = .illegal .reservedOp := by decide

theorem test_decode_rejects_producer :
    decodeP 0x2100 = .illegal .notPut ∧ decodeP 0x3000 = .illegal .notPut ∧ decodeP 0x1FFF = .illegal .notPut := by
  decide

theorem test_table_word :
    decodeTableWord 16 0x20FF = some (.put 0xFF) ∧ decodeTableWord 16 0x4004 = some (.read 4) ∧
      decodeTableWord 16 0x2100 = none ∧ decodeTableWord 16 0x6000 = none := by decide

/-! ## States -/

/-- Four slots, LAGGED, settled, empty; the host's buffers supplied (95_test_vectors.md L2.8, L2.9). -/
def empty4 : State :=
  { State.reset with hostOut := [0xEE, 0xEE, 0xEE, 0xEE], hostSrc := [0x48, 0x69] }

/-- `empty4` after PUT 0x41, PUT 0x42 and one GET, settled: one byte stored, in slot 1. -/
def one4 : State :=
  { empty4 with
    mem := [(0, 0x41), (1, 0x42)], head := 2, tail := 1, headSync := 2, tailSync := 1
    ghostH := 2, ghostT := 1, ghostHs := 2, ghostTs := 1, rxEn := true
    respq := [0x0041], history := [.put 0x41 .ok, .put 0x42 .ok, .getOk 0x41, .resp 0x0041] }

/-- Three bytes stored, settled: the buffer is full (R103). -/
def full4 : State :=
  { empty4 with
    mem := [(0, 0x41), (1, 0x42), (2, 0x43)], head := 3, headSync := 3, ghostH := 3, ghostHs := 3, rxEn := true
    history := [.put 0x41 .ok, .put 0x42 .ok, .put 0x43 .ok] }

/-- `full4` after one GET that the write side has not seen (95_test_vectors.md L2.4, the early-full row). -/
def early4 : State :=
  { full4 with
    tail := 1, ghostT := 1, respq := [0x0041], history := full4.history ++ [.getOk 0x41, .resp 0x0041] }

/-- Two bytes stored that the read side has not seen. -/
def unseen4 : State :=
  { empty4 with
    mem := [(0, 0x41), (1, 0x42)], head := 2, ghostH := 2, rxEn := true
    history := [.put 0x41 .ok, .put 0x42 .ok] }

/-- A READ 2 of `one4` in progress. -/
def read4 : State :=
  { one4 with cseq := .read, rdMax := 2, history := one4.history ++ [.readStart 2] }

/-- A WRITE 2 of `one4` in progress, its first byte offered. -/
def offer4 : State :=
  { one4 with
    cseq := .write, wrTotal := 2, wrIdx := 1, txValid := true, txData := 0x48
    history := one4.history ++ [.writeStart 2] }

/-- The same WRITE with both bytes accepted. -/
def sent4 : State :=
  { one4 with
    cseq := .write, wrTotal := 2, wrIdx := 2, txData := 0x69, txLog := [0x48, 0x69]
    history := one4.history ++ [.writeStart 2, .tx 0x48, .tx 0x69] }

/-- `full4` with the overrun counter present and about to wrap (L2.4). -/
def overrun4 : State :=
  { full4 with cfg := { Config.chosen with overrunCounter := true }, ovrCnt := 0xFFFF, rxq := [0x55] }

/-! ## One step of each operation -/

/-- L2.2. -/
theorem test_nop : (after (exec .nop one4)).map (fun t => (t.respq, t.head, t.tail)) = some ([0x0041, 0x0000], 2, 1) := by
  decide

/-- L2.3, first row: everything of the buffer is reset, RXQ stays. -/
theorem test_init :
    (after (exec .init { early4 with rxEn := false, rxq := [0x41] })).map
        (fun t => (t.mem, [t.head, t.tail, t.headSync, t.tailSync], t.rxq)) = some ([], [0, 0, 0, 0], [0x41]) := by
  decide

/-- L2.3, second row. -/
theorem test_init_race :
    (after (exec .init early4)).map (fun t => (t.fault, t.head, t.tail, t.respq)) =
      some (some .initRace, 3, 1, [0x0041]) := by decide

/-- L2.4: h = 3, t = 1 wraps. -/
theorem test_put_wraps :
    (after (exec (.put 0x55) { early4 with tailSync := 1, ghostTs := 1 })).map
        (fun t => (Memory.read t.mem 3, t.head, t.respq)) = some (some 0x55, 0, [0x0041]) := by decide

/-- L2.4: early full under LAGGED, and the counter's wrap. -/
theorem test_put_full :
    (after (exec (.put 0x55) early4)).map (fun t => (t.mem, t.head)) = some (early4.mem, 3) ∧
      (after (exec (.put 0x55) overrun4)).map State.ovrCnt = some 0x0000 := by decide

/-- L2.5: t = 3, h = 0, mem[3] = 0xFF wraps. -/
theorem test_get_wraps :
    (after (exec .get { empty4 with tail := 3, mem := [(3, 0xFF)] })).map (fun t => (t.tail, t.respq)) =
      some (0, [0x00FF]) := by decide

/-- L2.5: early empty under LAGGED. -/
theorem test_get_early_empty :
    (after (exec .get unseen4)).map (fun t => (t.tail, t.respq)) = some (0, [0x8000]) := by decide

/-- L2.8 and R140: READ 0 answers at once; a READ past the buffer faults. -/
theorem test_read_command :
    (after (exec (.read 0) one4)).map (fun t => (t.respq, t.cseq)) = some ([0x0041, 0x0000], .idle) ∧
      (after (exec (.read 5) one4)).map State.fault = some (some .hostbufBounds) := by decide

/-- R142's example: a CR is written as LF and ends the READ. -/
theorem test_read_step_cr :
    (after (perform .seqStep { read4 with mem := [(1, 0x0D)] })).map
        (fun t => (t.hostOut, t.tail, t.cseq, t.respq)) =
      some ([0x0A, 0xEE, 0xEE, 0xEE], 2, .idle, [0x0041, 0x0001]) := by decide

/-- L2.9 and R160: a WRITE past the source buffer faults; WRITE 2 starts. -/
theorem test_write_command :
    (after (exec (.write 3) one4)).map State.fault = some (some .hostbufBounds) ∧
      (after (exec (.write 2) one4)).map (fun t => (t.cseq, t.wrTotal, t.wrIdx)) = some (.write, 2, 0) := by decide

/-- L2.9: the first offer; the next step waits for the acceptance. -/
theorem test_write_step :
    (after (perform .seqStep { offer4 with wrIdx := 0, txValid := false })).map
        (fun t => (t.txValid, t.txData, t.wrIdx)) = some (true, 0x48, 1) ∧ canStep .seqStep offer4 = false := by decide

/-- R162. -/
theorem test_accept :
    (after (perform .accept offer4)).map (fun t => (t.txLog, t.txValid)) = some ([0x48], false) := by decide

/-- L2.6: h = 1, hs = 2: three values of j, and no fourth. -/
theorem test_w2r :
    (after (perform (.w2r 3) { empty4 with headSync := 2, head := 1 })).map State.headSync = some 1 ∧
      canStep (.w2r 4) { empty4 with headSync := 2, head := 1 } = false := by decide

/-- L2.6: ts = 3, t = 1: j = 1 gives 0. -/
theorem test_r2w :
    (after (perform (.r2w 1) { empty4 with tailSync := 3, tail := 1 })).map State.tailSync = some 0 ∧
      canStep (.r2w 3) { empty4 with tailSync := 3, tail := 1 } = false := by decide

/-- L2.1 and L2.10: a bad word is answered; decoding comes before INIT's check. -/
theorem test_illegal :
    (after (consumerWord 0x1001 one4)).map (fun t => (t.respq, t.fault)) = some ([0x0041, 0xC000], none) := by decide

/-- R82: a word other than PUT on the producer port. -/
theorem test_illegal_producer :
    (after (producerWord 0x2100 one4)).map (fun t => (t.history.getLast?, t.respq)) =
      some (some (.illegal .producer 0x2100), [0x0041]) := by decide

/-! ## Placing a word where the next step takes it -/

theorem test_fetch_get :
    (after (step (State.reset.withFetchWord 16 0x3000))).map (fun t => (t.respq, t.cmdq)) = some ([0x8000], []) := by
  decide

theorem test_fetch_put :
    (after (step (State.reset.withFetchWord 16 0x2041))).map (fun t => (Memory.read t.mem 0, t.head)) =
      some (some 0x41, 1) := by decide

theorem test_fetch_init : (after (step (State.reset.withFetchWord 16 0x1000))).map State.respq = some [0x0000] := by
  decide

/-! ## Functions outside the step -/

/-- L2.7. -/
theorem test_gray : (List.range 8).map (fun p => gray (BitVec.ofNat 3 p)) = [0, 1, 3, 2, 6, 7, 5, 4] := by decide

/-- R88: WRITE! 2 is the command, two pairs and one finishing step. -/
theorem test_write_bang :
    (writeBang 2).map lineMove = [.command, .seqStep, .accept, .seqStep, .accept, .seqStep] := by decide

/-- R88: RETARGET_INIT. -/
theorem test_retarget_init : retargetInit.map lineWord = [some 0x1000, none] := by decide

/-- R199. -/
theorem test_isatty : stubResult .isatty = .truth false := rfl

/-! ## Witnesses of invariants -/

theorem witness_order_empty4 : PointerOrder empty4 := by constructor <;> decide

theorem witness_order_one4 : PointerOrder one4 := by constructor <;> decide

theorem witness_order_full4 : PointerOrder full4 := by constructor <;> decide

theorem witness_order_early4 : PointerOrder early4 := by constructor <;> decide

theorem witness_order_unseen4 : PointerOrder unseen4 := by constructor <;> decide

theorem witness_order_read4 : PointerOrder read4 := by constructor <;> decide

theorem witness_fifo_one4 : FifoOrder one4 where
  puts := by decide
  removed := by decide
  stored k h1 h2 := by
    have h : k = 1 := Nat.le_antisymm (Nat.le_of_lt_succ h2) h1
    subst h
    decide

theorem witness_fifo_full4 : FifoOrder full4 where
  puts := by decide
  removed := by decide
  stored k _ h2 := by
    have h : k < 3 := h2
    interval_cases k <;> decide

theorem witness_fifo_unseen4 : FifoOrder unseen4 where
  puts := by decide
  removed := by decide
  stored k _ h2 := by
    have h : k < 2 := h2
    interval_cases k <;> decide

theorem witness_fifo_read4 : FifoOrder read4 where
  puts := by decide
  removed := by decide
  stored := witness_fifo_one4.stored

theorem witness_sequencer_one4 : SequencerOk one4 := by constructor <;> decide

theorem witness_sequencer_read4 : SequencerOk read4 := by constructor <;> decide

theorem witness_sequencer_offer4 : SequencerOk offer4 := by constructor <;> decide

theorem witness_sequencer_sent4 : SequencerOk sent4 := by constructor <;> decide

theorem witness_writelog_sent4 : WriteLogOk sent4 := fun _ => by decide

theorem witness_writelog_offer4 : WriteLogOk offer4 := fun _ => by decide

theorem witness_readlog_read4 : ReadLogOk read4 := by
  constructor <;> simp [read4, one4, empty4, State.reset, State.resetFor, lastReadLog, readLogStep]

theorem witness_logs_sent4 : LogsMatch sent4 := by constructor <;> decide

theorem witness_memory_one4 : MemoryOk one4 where
  wf := by simp [Memory.wf, one4]
  below := by simp [Memory.below, one4, empty4, State.reset, State.resetFor, Config.chosen, Config.N]

theorem witness_responses_one4 : ResponsesOk one4 := by
  intro w hw
  have h : w = 0x0041 := by simpa [one4] using hw
  subst h
  decide

/-! ## Witnesses of hypotheses, in the statements' order -/

theorem witness_EncodeOfDecodeIsTheWord :
    decodeOn .producer 0x20FF = .instr (.put 0xFF) ∧ decodeOn .consumer 0x4FFF = .instr (.read 4095) := by decide

theorem witness_IllegalConsumerWordOnlyAnswers :
    (6 ≤ (6 : BitVec 4) ∧ 6 ≤ (15 : BitVec 4)) ∧ ((0 : BitVec 4) = 0 ∧ (1 : Cnt) ≠ 0) ∧ (0x100 : Cnt).extractLsb' 8 4 ≠ 0 ∧
      decodeC 0x6000 = .illegal .reservedOp ∧ decodeC 0x2041 = .illegal .producerOnly := by decide

theorem witness_PortsCarryTheirOwnOperations :
    decodeP 0x2000 = .instr (.put 0) ∧ decodeC 0x0000 = .instr .nop ∧ (0x1FFF : Word).extractLsb' 8 8 ≠ 0x20 ∧
      (0x2100 : Word).extractLsb' 8 8 ≠ 0x20 := by decide

theorem witness_NopAnswersAndChangesNothing : (1 : Cnt) ≠ 0 ∧ (0xFFF : Cnt) ≠ 0 := by decide

theorem witness_InitResetsTheBuffer : one4.rxEn = true ∧ empty4.rxEn = false ∧ empty4.cfg.wf = true := by decide

theorem witness_PutStoresOrDrops :
    (full4.head + 1) % full4.cfg.N = tailView full4 ∧ (one4.head + 1) % one4.cfg.N ≠ tailView one4 ∧
      one4.cfg.syncModel = .lagged := by decide

theorem witness_GetRemovesOrReportsEmpty :
    empty4.tail = headView empty4 ∧
      ({ one4 with mem := [] } : State).tail ≠ headView { one4 with mem := [] } ∧
      Memory.read ({ one4 with mem := [] } : State).mem 1 = none ∧
      one4.tail ≠ headView one4 ∧ Memory.read one4.mem one4.tail = some 0x42 := by decide

theorem witness_ReadStarts :
    one4.hostOut.length < (5 : Cnt).toNat ∧ (4 : Cnt).toNat ≤ one4.hostOut.length ∧ (4 : Cnt) ≠ 0 := by decide

theorem witness_ReadStep_enabled_and_empty :
    read4.fault = none ∧ read4.cseq = .read ∧ ({ read4 with tail := 2 } : State).tail = headView { read4 with tail := 2 } := by
  decide

theorem witness_ReadStep_room : SequencerOk read4 ∧ read4.cseq = .read := ⟨witness_sequencer_read4, rfl⟩

theorem witness_ReadStep_unwritten :
    ({ read4 with mem := [] } : State).tail ≠ headView { read4 with mem := [] } ∧
      Memory.read ({ read4 with mem := [] } : State).mem 1 = none := by decide

theorem witness_ReadStep_cr :
    read4.tail ≠ headView read4 ∧ Memory.read ({ read4 with mem := [(1, 0x0D)] } : State).mem read4.tail = some 0x0D ∧
      read4.rdCnt.toNat < read4.hostOut.length := by decide

theorem witness_ReadStep_goes_on_or_stops :
    Memory.read read4.mem read4.tail = some 0x42 ∧ (0x42 : Byte) ≠ 0x0D ∧ read4.rdCnt + 1 ≠ read4.rdMax ∧
      read4.rdCnt + 1 = ({ read4 with rdMax := 1 } : State).rdMax := by decide

theorem witness_ReadOfEmptyBufferReturnsZero :
    empty4.fault = none ∧ (1 : Cnt) ≠ 0 ∧ (4 : Cnt).toNat ≤ empty4.hostOut.length ∧ empty4.tail = headView empty4 := by
  decide

theorem witness_WriteStarts :
    one4.hostSrc.length < (3 : Cnt).toNat ∧ (2 : Cnt).toNat ≤ one4.hostSrc.length ∧ (2 : Cnt) ≠ 0 := by decide

theorem witness_WriteStepOffersOrFinishes :
    sent4.fault = none ∧ sent4.cseq = .write ∧ sent4.txValid = false ∧ sent4.wrIdx = sent4.wrTotal ∧
      ({ sent4 with wrIdx := 1 } : State).wrIdx < sent4.wrTotal ∧ sent4.hostSrc[1]? = some 0x69 := by decide

theorem witness_AcceptTransmitsTheOfferedByte : offer4.fault = none ∧ offer4.txValid = true := by decide

theorem witness_SyncW2RMovesTheCopyForward :
    PointerOrder unseen4 ∧ canStep (.w2r 1) unseen4 = true ∧ canStep (.w2r 2) unseen4 = true :=
  ⟨witness_order_unseen4, by decide, by decide⟩

theorem witness_SyncR2WMovesTheCopyForward : PointerOrder early4 ∧ canStep (.r2w 1) early4 = true :=
  ⟨witness_order_early4, by decide⟩

theorem witness_OnlyTheFaultMarkStopsTheMachine : one4.fault = none := by decide

/-- `one4` with a received byte and the PRODUCER scheduled. -/
def received4 : State := { one4 with rxq := [0x43], schedule := [.produce] }

/-- `one4` with a GET and a bad word to come and the CONSUMER scheduled. -/
def commanded4 : State := { one4 with cmdq := [0x3000, 0xFFFF], schedule := [.command] }

theorem witness_ProducerStepRunsPutOfTheReceivedByte :
    received4.fault = none ∧ received4.schedule = .produce :: [] ∧ received4.rxEn = true ∧
      received4.rxq = 0x43 :: [] := by decide

theorem witness_CommandStepRunsTheDecodedWord :
    commanded4.fault = none ∧ commanded4.schedule = .command :: [] ∧ commanded4.cseq = .idle ∧
      commanded4.cmdq = 0x3000 :: [0xFFFF] ∧ decodeC 0x3000 = .instr .get ∧ decodeC 0xFFFF = .illegal .reservedOp := by
  decide

theorem witness_StepPerformsTheScheduledMove :
    received4.fault = none ∧ received4.schedule = .produce :: [] ∧ one4.fault = none ∧ one4.schedule = [] := by decide

theorem witness_StepPerforms_a_step_of_a_run : nextMove received4 = .produce ∧ ∃ t, step received4 = .next t :=
  ⟨rfl, _, rfl⟩

theorem witness_FaultMarkStopsTheMachine :
    ({ one4 with fault := some .initRace } : State).fault = some .initRace ∧ ∃ t, step received4 = .next t :=
  ⟨rfl, _, rfl⟩

theorem witness_OneResponsePerCommand : ∃ t, perform .command commanded4 = .next t ∧ t.respq ≠ commanded4.respq :=
  ⟨_, rfl, by decide⟩

theorem witness_CommandsWaitWhileBusy :
    read4.cseq ≠ .idle ∧ ∃ t, perform (.submit [0x3000]) read4 = .next t :=
  ⟨by decide, _, rfl⟩

theorem witness_EachAgentWritesOnlyItsOwnState :
    (∃ t, perform .produce received4 = .next t) ∧ (∃ t, perform .command commanded4 = .next t) ∧
      (∃ t, perform .seqStep read4 = .next t) ∧ (∃ t, perform .accept offer4 = .next t) ∧
      (∃ t, perform (.rxEn false) one4 = .next t) :=
  ⟨⟨_, rfl⟩, ⟨_, rfl⟩, ⟨_, rfl⟩, ⟨_, rfl⟩, ⟨_, rfl⟩⟩

/-- The synchronisers' moves, the full catch-ups among them: R87's `S: W2R *` and `S: R2W *` move the copy all the way. -/
theorem witness_EachAgentWritesOnlyItsOwnState_synchronisers :
    agentOf (.w2r 1) = .syncW2R ∧ (after (perform (.w2r 1) unseen4)).map State.headSync = some 1 ∧
      agentOf .w2rAll = .syncW2R ∧ (after (perform .w2rAll unseen4)).map State.headSync = some 2 ∧
      agentOf (.r2w 1) = .syncR2W ∧ (after (perform (.r2w 1) early4)).map State.tailSync = some 1 ∧
      agentOf .r2wAll = .syncR2W ∧ (after (perform .r2wAll early4)).map State.tailSync = some 1 := by decide

/-- R28: where the read side is early, the live predicate the host observes differs from its flag (log 26). -/
theorem test_outputs_live_predicates :
    ((outputs unseen4).emptyR, (outputs unseen4).trueEmpty) = (true, false) ∧
      ((outputs early4).fullW, (outputs early4).trueFull) = (true, false) := by decide

theorem witness_HostMovesChangeOneItem :
    one4.fault = none ∧ offer4.fault = none ∧ offer4.cseq ≠ .read ∧ read4.fault = none ∧ read4.cseq ≠ .write := by decide

theorem witness_HostLeavesBuffersInUseAlone :
    ofBlock (.supplyOut []) = false ∧ (∃ t, perform (.supplyOut []) read4 = .next t) ∧ read4.cseq = .read ∧
      (∃ t, perform (.supplySrc []) offer4 = .next t) ∧ offer4.cseq = .write :=
  ⟨rfl, ⟨_, rfl⟩, rfl, ⟨_, rfl⟩, rfl⟩

theorem witness_WriteStepIgnoresTheRingBuffer : sent4.cseq = .write ∧ ∃ t, perform .seqStep sent4 = .next t :=
  ⟨rfl, _, rfl⟩

theorem witness_OverrunCounterCountsDrops :
    overrun4.cfg.overrunCounter = true ∧ fullW overrun4 = true ∧ (∃ t, exec (.put 0x55) overrun4 = .next t) ∧
      ∃ t, perform .produce overrun4 = .next t :=
  ⟨rfl, by decide, ⟨_, rfl⟩, _, rfl⟩

theorem witness_a_step_of_every_invariant :
    (∃ t, step received4 = .next t) ∧ (∃ t, step commanded4 = .next t) ∧
      (∃ t, step { read4 with schedule := [.seqStep] } = .next t) ∧
      (∃ t, step { sent4 with schedule := [.seqStep] } = .next t) ∧
      (∃ t, step { offer4 with schedule := [.accept] } = .next t) :=
  ⟨⟨_, rfl⟩, ⟨_, rfl⟩, ⟨_, rfl⟩, ⟨_, rfl⟩, ⟨_, rfl⟩⟩

theorem witness_order_and_fifo_of_a_step :
    PointerOrder received4 ∧ FifoOrder received4 ∧ MemoryOk received4 ∧ ∃ t, step received4 = .next t :=
  ⟨by constructor <;> decide, ⟨by decide, by decide, witness_fifo_one4.stored⟩,
    ⟨witness_memory_one4.wf, witness_memory_one4.below⟩, _, rfl⟩

theorem witness_sequencer_of_a_step :
    SequencerOk { read4 with schedule := [.seqStep] } ∧ ReadLogOk { read4 with schedule := [.seqStep] } ∧
      ∃ t, step { read4 with schedule := [.seqStep] } = .next t :=
  ⟨by constructor <;> decide,
    ⟨witness_readlog_read4.translated, witness_readlog_read4.noCR, witness_readlog_read4.inProgress⟩, _, rfl⟩

theorem witness_writelog_of_a_step :
    SequencerOk { sent4 with schedule := [.seqStep] } ∧ WriteLogOk { sent4 with schedule := [.seqStep] } ∧
      LogsMatch { sent4 with schedule := [.seqStep] } ∧ ∃ t, step { sent4 with schedule := [.seqStep] } = .next t :=
  ⟨by constructor <;> decide, fun _ => by decide, by constructor <;> decide, _, rfl⟩

theorem witness_responses_of_a_step : ResponsesOk commanded4 ∧ ∃ t, step commanded4 = .next t :=
  ⟨witness_responses_one4, _, rfl⟩

theorem witness_InvariantsHoldAtReset : Config.chosen.wf = true ∧ ({ Config.chosen with ptrW := 1 }).wf = true := by
  decide

theorem witness_FlagsAreEarlyNeverLate :
    settled one4 = true ∧ trueEmpty empty4 = true ∧ PointerOrder empty4 ∧ trueFull full4 = true ∧ PointerOrder full4 :=
  ⟨by decide, by decide, witness_order_empty4, by decide, witness_order_full4⟩

theorem witness_Capacity_fills :
    settled empty4 = true ∧ empty4.ghostH - empty4.ghostT + [0x11, 0x12, (0x13 : Byte)].length = empty4.cfg.N - 1 ∧
      settled full4 = true ∧ full4.ghostH - full4.ghostT + ([] : List Byte).length = full4.cfg.N - 1 := by decide

theorem witness_Capacity_one_more :
    PointerOrder full4 ∧ FifoOrder full4 ∧ settled full4 = true ∧ full4.fault = none ∧
      full4.ghostH - full4.ghostT = full4.cfg.N - 1 :=
  ⟨witness_order_full4, witness_fifo_full4, by decide, by decide, by decide⟩

theorem witness_PutOverwritesNoUnreadByte :
    PointerOrder one4 ∧ fullW one4 = false ∧ one4.ghostT ≤ 1 ∧ 1 < one4.ghostH :=
  ⟨witness_order_one4, by decide, by decide, by decide⟩

theorem witness_StartedOperationStaysInItsBuffer :
    SequencerOk read4 ∧ read4.fault = none ∧ ∃ t, perform .seqStep read4 = .next t :=
  ⟨witness_sequencer_read4, rfl, _, rfl⟩

theorem witness_WriteAnswersAfterTheLastAcceptance :
    SequencerOk sent4 ∧ WriteLogOk sent4 ∧ sent4.fault = none ∧ sent4.cseq = .write ∧
      ∃ t, perform .seqStep sent4 = .next t ∧ t.respq ≠ sent4.respq ∧ t.cseq ≠ .write :=
  ⟨witness_sequencer_sent4, witness_writelog_sent4, rfl, rfl, _, rfl, by decide, by decide⟩

theorem witness_PutAndRemovalCommuteUnderLag : PointerOrder one4 ∧ one4.cfg.syncModel = .lagged :=
  ⟨witness_order_one4, rfl⟩

/-! A fair run: one full catch-up, and then a TX with nothing to accept, for ever. -/

/-- The moves of that run, the first being `m`. -/
def catchUpMoves (m : Move) : Nat → Move
  | 0 => m
  | _ + 1 => .accept

/-- The states of that run: `s`, and then `t` for ever. -/
def catchUpStates (s t : State) : Nat → State
  | 0 => s
  | _ + 1 => t

/-- `unseen4` with head_sync caught up. -/
def seen4 : State :=
  { unseen4 with headSync := 2, ghostHs := 2, history := unseen4.history ++ [.syncW2R 2] }

/-- `early4` with tail_sync caught up. -/
def late4 : State :=
  { early4 with tailSync := 1, ghostTs := 1, history := early4.history ++ [.syncR2W 1] }

/-- In a state that knows of every byte put and of every removal no synchroniser has a step. -/
theorem not_canStep_sync {s : State} (h : PointerOrder s) (hf : s.fault = none) (hH : ghostHsView s = s.ghostH)
    (hT : ghostTsView s = s.ghostT) : ¬ agentCanStep .syncW2R s ∧ ¬ agentCanStep .syncR2W s := by
  rw [w2r_canStep_iff h hf, r2w_canStep_iff h hf]
  omega

theorem catchUp_fair {s t : State} {m : Move} (h0 : step { s with schedule := [m] } = .next t)
    (h1 : step { t with schedule := [.accept] } = .next t) (ht : PointerOrder t) (hH : ghostHsView t = t.ghostH)
    (hT : ghostTsView t = t.ghostT) : FairRun (catchUpMoves m) (catchUpStates s t) := by
  obtain ⟨hw, hr⟩ := not_canStep_sync ht (step_cases h1).1 hH hT
  refine ⟨fun k => ?_, fun k h => absurd (h (k + 1) (by omega)) hw, fun k h => absurd (h (k + 1) (by omega)) hr⟩
  cases k
  · exact h0
  · exact h1

theorem witness_CaughtUp_fair_read_side :
    FairRun (catchUpMoves .w2rAll) (catchUpStates unseen4 seen4) ∧ PointerOrder unseen4 ∧ FifoOrder unseen4 ∧
      (∀ k, initCount (catchUpStates unseen4 seen4 k) = initCount unseen4) ∧ unseen4.ghostT < unseen4.ghostH :=
  ⟨catchUp_fair rfl rfl (by constructor <;> decide) (by decide) (by decide), witness_order_unseen4,
    witness_fifo_unseen4, fun k => by cases k <;> rfl, by decide⟩

theorem witness_CaughtUp_fair_write_side :
    FairRun (catchUpMoves .r2wAll) (catchUpStates early4 late4) ∧ PointerOrder early4 ∧ fullW early4 = true ∧
      ghostTsView early4 < early4.ghostT :=
  ⟨catchUp_fair rfl rfl (by constructor <;> decide) (by decide) (by decide), witness_order_early4,
    by decide, by decide⟩

/-- R162, R166, R236: nothing makes TX accept; a run in which a WRITE waits for ever is fair. -/
theorem test_fair_run_may_hang :
    FairRun (fun _ => .seqStep) (fun _ => offer4) ∧ waitsForTx offer4 = true := by
  obtain ⟨hw, hr⟩ := not_canStep_sync (s := offer4) (by constructor <;> decide) rfl (by decide) (by decide)
  exact ⟨⟨fun _ => rfl, fun k h => absurd (h k (Nat.le_refl k)) hw, fun k h => absurd (h k (Nat.le_refl k)) hr⟩,
    by decide⟩

/-- R236: a run whose SYNC_W2R could step at every point and never does is not fair. -/
theorem test_lag_for_ever_is_not_fair : ¬ FairRun (fun _ => .accept) (fun _ => unseen4) := by
  intro h
  obtain ⟨i, -, ha, -⟩ := h.w2r 0 fun _ _ => (w2r_canStep_iff witness_order_unseen4 rfl).2 (by decide)
  cases ha

theorem witness_CaughtUp_read_side :
    PointerOrder unseen4 ∧ FifoOrder unseen4 ∧ unseen4.fault = none ∧ unseen4.ghostT < unseen4.ghostH :=
  ⟨witness_order_unseen4, witness_fifo_unseen4, rfl, by decide⟩

theorem witness_CaughtUp_write_side :
    PointerOrder early4 ∧ early4.fault = none ∧ fullW early4 = true ∧ ghostTsView early4 < early4.ghostT :=
  ⟨witness_order_early4, rfl, by decide, by decide⟩

theorem witness_ImmediateIsARestrictionOfLagged :
    PointerOrder commanded4 ∧ commanded4.cfg.syncModel = .lagged ∧ settled commanded4 = true ∧
      ∃ t, perform .command (asImmediate commanded4) = .next t ∧ t.respq = [0x0041, 0x0042] :=
  ⟨by constructor <;> decide, rfl, by decide, _, rfl, by decide⟩

theorem witness_ReadTerminatesWhateverOthersDo :
    PointerOrder read4 ∧ FifoOrder read4 ∧ SequencerOk read4 ∧ read4.fault = none ∧ read4.cseq = .read ∧
      ({ read4 with schedule := [.produce, .seqStep, .accept, .seqStep] } : State).schedule =
        [.produce, .seqStep, .accept, .seqStep] ∧
      read4.rdMax.toNat - read4.rdCnt.toNat ≤ [Move.produce, .seqStep, .accept, .seqStep].count .seqStep :=
  ⟨witness_order_read4, witness_fifo_read4, witness_sequencer_read4, rfl, rfl, rfl, by decide⟩

theorem witness_UninterruptedReadReturnsTheLine :
    PointerOrder full4 ∧ FifoOrder full4 ∧ settled full4 = true ∧ full4.fault = none ∧ full4.cseq = .idle ∧
      (4 : Cnt) ≠ 0 ∧ (4 : Cnt).toNat ≤ full4.hostOut.length :=
  ⟨witness_order_full4, witness_fifo_full4, by decide, rfl, rfl, by decide, by decide⟩

theorem witness_AcceptedWriteTransmitsTheBuffer :
    one4.fault = none ∧ one4.cseq = .idle ∧ one4.txValid = false ∧ (2 : Cnt) ≠ 0 ∧
      (2 : Cnt).toNat ≤ one4.hostSrc.length := by decide

theorem witness_EndedMeansNoAgentCanStep : PointerOrder one4 ∧ ended one4 = true ∧ ended unseen4 = false :=
  ⟨witness_order_one4, by decide, by decide⟩

theorem witness_Gray :
    1 ≤ 3 ∧ (∀ k, k < 3 → (gray (7 : BitVec 3)).getLsbD k = (gray (7 : BitVec 3)).getLsbD k ∨
      (gray (7 : BitVec 3)).getLsbD k = (gray ((7 : BitVec 3) + 1)).getLsbD k) :=
  ⟨by decide, fun _ _ => .inl rfl⟩

end Sys2Proof.Tests
end

/-! SUPPORT. Proofs about the state (10_state.md): what each agent writes, the logs, the sequencer's registers, the flags,
the fault mark and the reset values. -/

namespace Sys2Proof.Machine

variable {s t u : State} {m : Move}

/-! ## What each agent writes (10_state.md R40) -/

/-- The one word that spells INIT (30_encoding.md R73). -/
theorem eq_initWord_of_decodeC {w : Word} (h : decodeC w = .instr .init) : w = 0x1000 := by
  have hf : opField w = 0x1 ∧ xField w = 0 := by
    unfold decodeC noOperand at h
    split_ifs at h <;> simp_all
  rw [word_eq_fields w, hf.1, hf.2]
  rfl

/-- From `s` to `t` only what the CONSUMER writes outside INIT has changed, and an offered byte stays offered
(10_state.md R40). -/
def ConsumerFrame (s t : State) : Prop :=
  (s.txValid = true → t.txValid = true) ∧
    t = { s with
          tail := t.tail, cseq := t.cseq, rdMax := t.rdMax, rdCnt := t.rdCnt
          wrTotal := t.wrTotal, wrIdx := t.wrIdx, txValid := t.txValid, txData := t.txData
          fault := t.fault, cmdq := t.cmdq, respq := t.respq, hostOut := t.hostOut
          history := t.history, ghostT := t.ghostT }

theorem StepCase.command_frame (h : StepCase s .command t) :
    (s.cmdq.head? = some 0x1000 ∧ quiescent s = true) ∨ ConsumerFrame s t := by
  cases h with
  | init w rest hq hi hw hen =>
    have hword := eq_initWord_of_decodeC hw
    exact .inl ⟨by simp [hq, hword], by simp [quiescent, hen, hi]⟩
  | _ => exact .inr ⟨id, rfl⟩

theorem StepCase.seqStep_frame (h : StepCase s .seqStep t) : ConsumerFrame s t := by
  cases h with
  | readByte hr he b hm hl =>
    rcases afterByte_cases b (record (.readByte b (crToLf b)) (s.removed.appended (crToLf b))) with
      ⟨-, h⟩ | ⟨-, -, h⟩ | ⟨-, -, h⟩ <;> rw [h] <;> exact ⟨id, rfl⟩
  | writeOffer => exact ⟨fun _ => rfl, rfl⟩
  | _ => exact ⟨id, rfl⟩

theorem StepCase.consumer_frame (hm : m = .command ∨ m = .seqStep) (h : StepCase s m t) :
    (m = .command ∧ s.cmdq.head? = some 0x1000 ∧ quiescent s = true) ∨ ConsumerFrame s t := by
  rcases hm with rfl | rfl
  · exact h.command_frame.imp (⟨rfl, ·⟩) id
  · exact .inr h.seqStep_frame

/-- A PRODUCER move writes slot `head` only (R40). -/
theorem StepCase.produce_other_slots (h : StepCase s .produce t) {a : Nat} (ha : a ≠ s.head) :
    Memory.read t.mem a = Memory.read s.mem a := by
  cases h with
  | putOk b => exact read_write_other s.mem b ha
  | _ => rfl

theorem StepCase.produce_frame (h : StepCase s .produce t) :
    t = { s with
          mem := t.mem, head := t.head, ovrCnt := t.ovrCnt
          rxq := t.rxq, history := t.history, ghostH := t.ghostH } := by
  cases h <;> rfl

theorem StepCase.syncW2R_frame (hm : agentOf m = .syncW2R) (h : StepCase s m t) :
    t = { s with headSync := t.headSync, history := t.history, ghostHs := t.ghostHs } := by
  cases m with
  | w2r | w2rAll => cases h <;> rfl
  | _ => cases hm

theorem StepCase.syncR2W_frame (hm : agentOf m = .syncR2W) (h : StepCase s m t) :
    t = { s with tailSync := t.tailSync, history := t.history, ghostTs := t.ghostTs } := by
  cases m with
  | r2w | r2wAll => cases h <;> rfl
  | _ => cases hm

theorem StepCase.accept_frame (h : StepCase s .accept t) :
    t = { s with txValid := t.txValid, txLog := t.txLog, history := t.history } := by
  cases h <;> rfl

theorem StepCase.accept_clears (h : StepCase s .accept t) : t.txValid = false ∨ t = s := by
  cases h with
  | pass => exact .inr rfl
  | accept => exact .inl rfl

theorem StepCase.host_frame (hm : ofBlock m = false) (h : StepCase s m t) :
    t = { s with
          rxEn := t.rxEn, rxq := t.rxq, cmdq := t.cmdq, hostOut := t.hostOut, hostSrc := t.hostSrc } := by
  cases m with
  | rxEn | receive | submit | supplyOut | supplySrc => cases h <;> rfl
  | _ => cases hm

/-- Settles O27: the frame of each agent's cases of `StepCase`. -/
theorem eachAgentWritesOnlyItsOwnState : Obligations.EachAgentWritesOnlyItsOwnState :=
  ⟨fun _ _ h => ⟨fun _ => (perform_cases h).produce_other_slots, (perform_cases h).produce_frame⟩,
    fun _ _ _ hm h => (perform_cases h).consumer_frame hm,
    fun _ _ _ hm h => (perform_cases h).syncW2R_frame hm,
    fun _ _ _ hm h => (perform_cases h).syncR2W_frame hm,
    fun _ => ⟨rfl, rfl⟩,
    fun _ _ h => (perform_cases h).accept_clears,
    fun _ _ h => (perform_cases h).accept_frame,
    fun _ _ _ hm h => (perform_cases h).host_frame hm⟩

/-! ## The logs (10_state.md R33, R36) -/

/-- From `s` to `t` the parameters are the same, the history has grown by some events, and RESPQ and TXLOG by the
responses and the transmitted bytes of just these events (10_state.md R33, R36; log 5). -/
structure LogStep (s t : State) : Prop where
  cfg : t.cfg = s.cfg
  grown : ∃ es, t.history = s.history ++ es ∧ t.respq = s.respq ++ responsesOf es ∧
    t.txLog = s.txLog ++ transmittedOf es

namespace LogStep

theorem of_eq (hc : t.cfg = s.cfg := by rfl) (hh : t.history = s.history := by rfl)
    (hr : t.respq = s.respq := by rfl) (hx : t.txLog = s.txLog := by rfl) : LogStep s t :=
  ⟨hc, [], by simp [hh], by simp [hr], by simp [hx]⟩

theorem of_event (e : Event) (hc : t.cfg = s.cfg) (hh : t.history = s.history ++ [e])
    (hr : t.respq = s.respq ++ (eventResponse e).toList) (hx : t.txLog = s.txLog ++ (eventTransmitted e).toList) :
    LogStep s t :=
  ⟨hc, [e], hh, by simp [hr], by simp [hx]⟩

theorem trans (h : LogStep s t) (k : LogStep t u) : LogStep s u := by
  obtain ⟨hc, es, hh, hr, hx⟩ := h
  obtain ⟨kc, fs, kh, kr, kx⟩ := k
  exact ⟨kc.trans hc, es ++ fs, by simp [kh, hh], by simp [kr, hr], by simp [kx, hx]⟩

/-- Recording an event that is neither a response nor a transmission. -/
theorem record (h : LogStep s t) {e : Event} (hr : eventResponse e = none := by rfl)
    (hx : eventTransmitted e = none := by rfl) : LogStep s (record e t) :=
  h.trans (of_event e rfl rfl (by simp [hr]) (by simp [hx]))

theorem respond (h : LogStep s t) {st : Status} {v : Cnt} : LogStep s (respond st v t) :=
  h.trans (of_event (.resp (responseWord st v)) rfl rfl rfl (List.append_nil _).symm)

theorem raiseFault (h : LogStep s t) {f : Fault} : LogStep s (raiseFault f t) :=
  h.trans (of_event (.fault f) rfl rfl (List.append_nil _).symm (List.append_nil _).symm)

theorem finishRead (h : LogStep s t) {r : StopReason} : LogStep s (finishRead r t) :=
  ((h.record (e := .readStop r t.rdCnt)).respond).trans of_eq

theorem finishWrite (h : LogStep s t) : LogStep s (finishWrite t) :=
  ((h.record (e := .writeDone t.wrTotal)).respond).trans of_eq

theorem afterByte (h : LogStep s t) {b : Byte} : LogStep s (afterByte b t) := by
  rcases afterByte_cases b t with ⟨-, e⟩ | ⟨-, -, e⟩ | ⟨-, -, e⟩ <;> rw [e]
  · exact h.finishRead
  · exact h.finishRead
  · exact h

theorem takeMove : LogStep s (takeMove s) := of_eq (by simp) (by simp) (by simp) (by simp)

end LogStep

/-- Every move records what it answers and transmits. -/
theorem StepCase.logStep (h : StepCase s m t) : LogStep s t := by
  cases h with
  | pass | rxEn | receive | submit | supplyOut | supplySrc | writeOffer => exact .of_eq
  | w2r | w2rAll | r2w | r2wAll | putFull | putOk | readStart | writeStart =>
    exact .record .of_eq
  | accept => exact .of_event (.tx s.txData) rfl rfl (List.append_nil _).symm rfl
  | nop => exact .respond .of_eq
  | illegal | init | getEmpty | getOk => exact .respond (.record .of_eq)
  | readZero | writeZero => exact .respond (.record (.record .of_eq))
  | initRace | getUnwritten | readBounds | writeBounds | readUnwritten | readNoRoom | writeNoByte =>
    exact .raiseFault .of_eq
  | readEmpty => exact .finishRead .of_eq
  | readByte => exact .afterByte (.record .of_eq)
  | writeDone => exact .finishWrite .of_eq

theorem step_logStep (h : step s = .next t) : LogStep s t := by
  obtain ⟨-, m, -, hc⟩ := step_cases h
  exact LogStep.takeMove.trans hc.logStep

/-- Settles O32: what a step logs is appended. -/
theorem logsOnlyGrow : Obligations.LogsOnlyGrow := by
  intro s t h
  obtain ⟨hcfg, es, hh, hr, hx⟩ := step_logStep h
  exact ⟨⟨_, hh.symm⟩, ⟨_, hr.symm⟩, ⟨_, hx.symm⟩, hcfg⟩

/-- Settles O49: RESPQ and TXLOG grow by what the new events record. -/
theorem everyStepKeepsTheLogsInHistory : Obligations.EveryStepKeepsTheLogsInHistory := by
  intro s t hs h
  obtain ⟨-, es, hh, hr, hx⟩ := step_logStep h
  exact ⟨by simp [hr, hh, hs.responses], by simp [hx, hh, hs.transmitted]⟩

/-! ## The sequencer's registers (10_state.md R31) -/

/-- The sequencer invariant reads only the sequencer's registers and the lengths of the host's buffers. -/
theorem sequencerOk_congr (h : SequencerOk s) (hq : t.cseq = s.cseq := by rfl)
    (hm : t.rdMax = s.rdMax := by rfl) (hc : t.rdCnt = s.rdCnt := by rfl) (hw : t.wrTotal = s.wrTotal := by rfl)
    (hi : t.wrIdx = s.wrIdx := by rfl) (hv : t.txValid = s.txValid := by rfl)
    (ho : t.hostOut.length = s.hostOut.length := by rfl) (hs : t.hostSrc.length = s.hostSrc.length := by rfl) :
    SequencerOk t := by
  obtain ⟨hidle, hread, hwrite⟩ := h
  constructor <;> simp only [hq, hm, hc, hw, hi, hv, ho, hs] <;> assumption

theorem sequencerOk_of_idle (hq : t.cseq = .idle)
    (h : t.rdMax = 0 ∧ t.rdCnt = 0 ∧ t.wrTotal = 0 ∧ t.wrIdx = 0 ∧ t.txValid = false) : SequencerOk t :=
  ⟨fun _ => h, by simp [hq], by simp [hq]⟩

theorem sequencerOk_of_read (hq : t.cseq = .read)
    (h : t.rdCnt < t.rdMax ∧ t.rdMax.toNat ≤ t.hostOut.length ∧ t.wrTotal = 0 ∧ t.wrIdx = 0 ∧ t.txValid = false) :
    SequencerOk t :=
  ⟨by simp [hq], fun _ => h, by simp [hq]⟩

theorem sequencerOk_of_write (hq : t.cseq = .write)
    (h : t.wrIdx ≤ t.wrTotal ∧ 0 < t.wrTotal ∧ t.wrTotal.toNat ≤ t.hostSrc.length ∧ t.rdMax = 0 ∧ t.rdCnt = 0 ∧
      (t.txValid = true → 0 < t.wrIdx)) : SequencerOk t :=
  ⟨by simp [hq], by simp [hq], fun _ => h⟩

/-- A command taken while idle leaves a consistent sequencer: idle, faulted, or just started. -/
theorem StepCase.command_sequencerOk (hs : SequencerOk s) (h : StepCase s .command t) : SequencerOk t := by
  cases h with
  | readStart w rest hq hi m hd hm h0 =>
    obtain ⟨-, -, hw, hx, hv⟩ := hs.idle hi
    exact sequencerOk_of_read rfl ⟨(BitVec.pos_iff_ne_zero m).2 h0, hm, hw, hx, hv⟩
  | writeStart w rest hq hi c hd hc h0 =>
    obtain ⟨hm, hr, -, -, hv⟩ := hs.idle hi
    have hpos : 0 < c := (BitVec.pos_iff_ne_zero c).2 h0
    exact sequencerOk_of_write rfl
      ⟨BitVec.le_of_lt hpos, hpos, hc, hm, hr, fun hv' => absurd hv' (by simp [hv])⟩
  | _ => exact sequencerOk_congr hs

/-- What follows the removed byte ends the READ, or leaves its count below its bound (41_line_reader.md R142). -/
theorem afterByte_sequencerOk {b : Byte} (hq : s.cseq = .read) (hle : s.rdCnt ≤ s.rdMax)
    (hl : s.rdMax.toNat ≤ s.hostOut.length) (hw : s.wrTotal = 0) (hx : s.wrIdx = 0) (hv : s.txValid = false) :
    SequencerOk (afterByte b s) := by
  have hdone (r : StopReason) : SequencerOk (finishRead r s) := sequencerOk_of_idle rfl ⟨rfl, rfl, hw, hx, hv⟩
  rcases afterByte_cases b s with ⟨-, e⟩ | ⟨-, -, e⟩ | ⟨-, hne, e⟩ <;> rw [e]
  · exact hdone .cr
  · exact hdone .max
  · exact sequencerOk_of_read hq ⟨BitVec.lt_of_le_ne hle hne, hl, hw, hx, hv⟩

theorem StepCase.seqStep_sequencerOk (hs : SequencerOk s) (h : StepCase s .seqStep t) : SequencerOk t := by
  cases h with
  | readEmpty hr he =>
    obtain ⟨-, -, hw, hx, hv⟩ := hs.read hr
    exact sequencerOk_of_idle rfl ⟨rfl, rfl, hw, hx, hv⟩
  | readByte hr he b hm hl =>
    obtain ⟨hlt, hlen, hw, hx, hv⟩ := hs.read hr
    have hle : s.rdCnt + 1 ≤ s.rdMax := by bv_omega
    exact afterByte_sequencerOk hr hle (by simpa using hlen) hw hx hv
  | writeOffer hw ht hi b hb =>
    obtain ⟨-, h0, hlen, hm, hc, -⟩ := hs.write hw
    have hsucc : s.wrIdx + 1 ≤ s.wrTotal ∧ 0 < s.wrIdx + 1 := by bv_omega
    exact sequencerOk_of_write hw ⟨hsucc.1, h0, hlen, hm, hc, fun _ => hsucc.2⟩
  | writeDone hw ht hi =>
    obtain ⟨-, -, -, hm, hc, -⟩ := hs.write hw
    exact sequencerOk_of_idle rfl ⟨hm, hc, rfl, rfl, ht⟩
  | _ => exact sequencerOk_congr hs

theorem txAccept_sequencerOk (hs : SequencerOk s) : SequencerOk (txAccept s) := by
  refine ⟨fun hi => ?_, fun hr => ?_, fun hw => ?_⟩
  · obtain ⟨hm, hc, hw, hx, -⟩ := hs.idle hi
    exact ⟨hm, hc, hw, hx, rfl⟩
  · obtain ⟨hlt, hlen, hw, hx, -⟩ := hs.read hr
    exact ⟨hlt, hlen, hw, hx, rfl⟩
  · obtain ⟨hle, h0, hlen, hm, hc, -⟩ := hs.write hw
    exact ⟨hle, h0, hlen, hm, hc, fun hv => by simp at hv⟩

theorem StepCase.sequencerOk (hs : SequencerOk s) (h : StepCase s m t) : SequencerOk t := by
  cases m with
  | command => exact h.command_sequencerOk hs
  | seqStep => exact h.seqStep_sequencerOk hs
  | accept =>
    cases h with
    | pass => exact hs
    | accept => exact txAccept_sequencerOk hs
  | supplyOut buffer =>
    cases h with
    | pass => exact hs
    | supplyOut _ hr => exact ⟨hs.idle, fun hr' => absurd hr' hr, hs.write⟩
  | supplySrc buffer =>
    cases h with
    | pass => exact hs
    | supplySrc _ hw => exact ⟨hs.idle, hs.read, fun hw' => absurd hw' hw⟩
  | _ => cases h <;> exact sequencerOk_congr hs

theorem takeMove_sequencerOk (hs : SequencerOk s) : SequencerOk (takeMove s) :=
  sequencerOk_congr hs (by simp) (by simp) (by simp) (by simp) (by simp) (by simp) (by simp) (by simp)

/-- Settles O44, by the cases of the step. -/
theorem everyStepKeepsTheSequencer : Obligations.EveryStepKeepsTheSequencer := by
  intro s t hs h
  obtain ⟨-, m, -, hc⟩ := step_cases h
  exact hc.sequencerOk (takeMove_sequencerOk hs)

/-! ## The flags (10_state.md R26 to R28) -/

/-- Removals never overtake PUTs, and fewer than N bytes are stored (40_ring_buffer.md R103, R120). -/
theorem stored_bounds (h : PointerOrder s) : s.ghostT ≤ s.ghostH ∧ s.ghostH < s.ghostT + s.cfg.N := by
  have hN := N_pos s.cfg
  have h1 := h.tsT
  have h4 := h.hTs
  exact ⟨h.tHs.trans h.hsH, by omega⟩

/-- Where the pointer order holds, the buffer is truly empty exactly where every byte put has been removed. -/
theorem trueEmpty_iff (h : PointerOrder s) : trueEmpty s = true ↔ s.ghostH = s.ghostT := by
  obtain ⟨hle, hlt⟩ := stored_bounds h
  simp only [trueEmpty, beq_iff_eq, h.head, h.tail]
  exact ⟨fun e => (eq_of_mod_eq hle hlt e.symm).symm, fun e => by rw [e]⟩

/-- Where the pointer order holds, the buffer is truly full exactly where N − 1 bytes are stored. -/
theorem trueFull_iff (h : PointerOrder s) : trueFull s = true ↔ s.ghostH + 1 = s.ghostT + s.cfg.N := by
  obtain ⟨hle, hlt⟩ := stored_bounds h
  simp only [trueFull, beq_iff_eq, h.head, h.tail, inc_mod]
  constructor
  · intro e
    by_contra hne
    have : s.ghostT = s.ghostH + 1 := eq_of_mod_eq (n := s.cfg.N) (by omega) (by omega) e.symm
    omega
  · intro e
    rw [e, Nat.add_mod_right]

theorem flags_of_settled (h : settled s = true) : emptyR s = trueEmpty s ∧ fullW s = trueFull s := by
  simp only [settled, Bool.and_eq_true, beq_iff_eq] at h
  simp only [emptyR, trueEmpty, fullW, trueFull, h.1, h.2, and_true]
  exact BEq.comm

/-- A truly empty buffer has no byte the read side could know of: T ≤ Hs ≤ H. -/
theorem emptyR_of_trueEmpty (h : PointerOrder s) (he : trueEmpty s = true) : emptyR s = true := by
  rw [trueEmpty_iff h] at he
  exact (emptyR_iff h).2 (le_antisymm h.tHs (he ▸ h.hsH))

/-- A truly full buffer has no removal left that the write side could miss: H ≤ Ts + N − 1 and Ts ≤ T. -/
theorem fullW_of_trueFull (h : PointerOrder s) (hf : trueFull s = true) : fullW s = true := by
  rw [trueFull_iff h] at hf
  have hN := N_pos s.cfg
  have h1 := h.tsT
  have h4 := h.hTs
  exact (fullW_iff h).2 (by omega)

/-- Settles O37: under the pointer order each flag and its live predicate compare the same counters. -/
theorem flagsAreEarlyNeverLate : Obligations.FlagsAreEarlyNeverLate := fun _ =>
  ⟨beq_iff_eq, beq_iff_eq, flags_of_settled, fun h => ⟨emptyR_of_trueEmpty h, fullW_of_trueFull h⟩⟩

/-! ## The fault mark (10_state.md R35) -/

theorem canStep_of_fault {f : Fault} (h : s.fault = some f) (m : Move) : canStep m s = false := by
  simp [canStep, h]

theorem step_of_fault {f : Fault} (h : s.fault = some f) : step s = .fault f := by
  simp [step, scheduledStep, h]

/-- Settles O24: every agent's step is guarded by the absence of the mark. -/
theorem faultMarkStopsTheMachine : Obligations.FaultMarkStopsTheMachine :=
  ⟨fun _ _ h => ⟨canStep_of_fault h, step_of_fault h⟩, fun _ _ h => (step_cases h).1⟩

/-! ## Reset (10_state.md R39) -/

@[simp] theorem headView_resetFor (c : Config) : headView (State.resetFor c) = 0 := by
  unfold headView
  split <;> rfl

@[simp] theorem tailView_resetFor (c : Config) : tailView (State.resetFor c) = 0 := by
  unfold tailView
  split <;> rfl

theorem emptyR_resetFor (c : Config) : emptyR (State.resetFor c) = true := by
  rw [emptyR, headView_resetFor]
  rfl

/-- With at least two slots, slot 1 is not slot 0. -/
theorem fullW_resetFor {c : Config} (h : c.wf = true) : fullW (State.resetFor c) = false := by
  have hne : inc c 0 ≠ 0 := by
    rw [inc, Nat.mod_eq_of_lt (two_le_N h)]
    decide
  rw [fullW, tailView_resetFor]
  exact beq_false_of_ne hne

/-- Settles O33: the fields as `State.resetFor` has them, and the status that follows. -/
theorem resetLeavesTheSpecValues : Obligations.ResetLeavesTheSpecValues := fun c =>
  ⟨rfl, rfl, rfl, rfl, rfl, fun _ => rfl, rfl, rfl, rfl, rfl, rfl, rfl, rfl, rfl, rfl, rfl, rfl,
    emptyR_resetFor c, rfl, fullW_resetFor⟩

end Sys2Proof.Machine

/-! SUPPORT. Proofs about RBMEM (20_memory.md): what a step can do to the memory, and its canonical form. -/

namespace Sys2Proof.Machine

variable {s t : State} {m : Move}

@[simp] theorem afterByte_mem (b : Byte) (s : State) : (afterByte b s).mem = s.mem := by
  rw [afterByte_frame]

/-- A step leaves RBMEM alone, or leaves every slot unwritten (INIT, 40_ring_buffer.md R101), or writes slot `head`
(PUT, R102). -/
theorem StepCase.mem_cases (h : StepCase s m t) :
    t.mem = s.mem ∨ t.mem = [] ∨ ∃ b, t.mem = Memory.write s.mem s.head b := by
  cases h with
  | init => exact .inr (.inl rfl)
  | putOk b => exact .inr (.inr ⟨b, rfl⟩)
  | readByte => exact .inl (afterByte_mem _ _)
  | _ => exact .inl rfl

theorem PointerOrder.head_lt (h : PointerOrder s) : s.head < s.cfg.N :=
  h.head ▸ Nat.mod_lt _ (N_pos s.cfg)

/-- The memory invariant reads only RBMEM and the parameters. -/
theorem memoryOk_congr (h : MemoryOk s) (hc : t.cfg = s.cfg) (hm : t.mem = s.mem) : MemoryOk t :=
  ⟨hm ▸ h.wf, hm ▸ hc ▸ h.below⟩

theorem memoryOk_of_nil (hm : t.mem = []) : MemoryOk t :=
  ⟨by simp [hm, Memory.wf], by simp [hm, Memory.below]⟩

theorem memoryOk_write (h : MemoryOk s) {a : Nat} {b : Byte} (ha : a < s.cfg.N) (hc : t.cfg = s.cfg)
    (hm : t.mem = Memory.write s.mem a b) : MemoryOk t :=
  ⟨hm ▸ write_wf h.wf a b, hm ▸ hc ▸ write_below h.below ha b⟩

/-- Every move keeps RBMEM canonical and within its slots: the only slot a step writes is `head`. -/
theorem StepCase.memoryOk (hh : s.head < s.cfg.N) (hs : MemoryOk s) (h : StepCase s m t) : MemoryOk t := by
  have hc : t.cfg = s.cfg := h.logStep.cfg
  obtain hm | hm | ⟨b, hm⟩ := h.mem_cases
  · exact memoryOk_congr hs hc hm
  · exact memoryOk_of_nil hm
  · exact memoryOk_write hs hh hc hm

/-- Settles O43: the pointer order puts `head` below N, and `head` is the only slot a step writes. -/
theorem everyStepKeepsMemoryCanonical : Obligations.EveryStepKeepsMemoryCanonical := by
  intro s t ho hs h
  obtain ⟨-, m, -, hc⟩ := step_cases h
  exact hc.memoryOk (by simpa using ho.head_lt) (memoryOk_congr hs (takeMove_cfg s) (takeMove_mem s))

end Sys2Proof.Machine

/-! SUPPORT. Proofs about the encoding (30_encoding.md): decoding and encoding are inverse on each port, which words each
port accepts, what a rejected word does, and the responses. -/

namespace Sys2Proof.Machine

variable {s t : State} {m : Move}

/-! ## Words and their fields (30_encoding.md R70 to R78) -/

theorem encode_eq_fields : (i : Instr) → encode i = i.op ++ i.operand
  | .nop => Laws.OpField.nop
  | .init => Laws.OpField.init
  | .put b => Laws.OpField.put b
  | .get => Laws.OpField.get
  | .read m => Laws.OpField.read m
  | .write c => Laws.OpField.write c

theorem opField_encode (i : Instr) : opField (encode i) = i.op := by
  rw [encode_eq_fields, opField_append]

theorem xField_encode (i : Instr) : xField (encode i) = i.operand := by
  rw [encode_eq_fields, xField_append]

/-- A word is determined by its fields, so it is the word of the operation whose fields it has. -/
theorem encode_eq_of_fields {w : Word} {i : Instr} (hop : opField w = i.op) (hx : xField w = i.operand) :
    encode i = w := by
  rw [encode_eq_fields, ← hop, ← hx, ← word_eq_fields]

/-- The PUT word of a byte is 0x20 above the byte (R74). -/
theorem rxWord_eq_append (b : Byte) : rxWord b = 0x20#8 ++ b := rfl

/-- A word is its two bytes. -/
theorem word_eq_bytes (w : Word) : w = w.extractLsb' 8 8 ++ w.extractLsb' 0 8 :=
  (BitVec.extractLsb'_append_extractLsb' (w := 8) (len := 8)).symm

/-! ## Decoding (30_encoding.md R79, R82, R83) -/

/-- What the consumer port decodes has the fields of the word, and is not PUT. -/
theorem fields_of_decodeC {w : Word} {i : Instr} (h : decodeC w = .instr i) :
    opField w = i.op ∧ xField w = i.operand ∧ i.port = .consumer := by
  unfold decodeC noOperand at h
  split_ifs at h <;> cases h <;> simp_all [Instr.op, Instr.operand, Instr.port]

theorem decodeC_encode {i : Instr} (h : i.port = .consumer) : decodeC (encode i) = .instr i := by
  have hop := opField_encode i
  have hx := xField_encode i
  cases i with
  | put => cases h
  | _ => simp [decodeC, noOperand, hop, hx, Instr.op, Instr.operand]

theorem decodeC_eq_instr_iff {w : Word} {i : Instr} :
    decodeC w = .instr i ↔ i.port = .consumer ∧ encode i = w := by
  constructor
  · intro h
    obtain ⟨hop, hx, hp⟩ := fields_of_decodeC h
    exact ⟨hp, encode_eq_of_fields hop hx⟩
  · rintro ⟨hp, rfl⟩
    exact decodeC_encode hp

theorem decodeP_eq_instr_iff {w : Word} {i : Instr} :
    decodeP w = .instr i ↔ i.port = .producer ∧ encode i = w := by
  constructor
  · intro h
    unfold decodeP at h
    split_ifs at h with hb
    cases h
    refine ⟨rfl, ?_⟩
    calc encode (.put (w.extractLsb' 0 8)) = 0x20#8 ++ w.extractLsb' 0 8 := rxWord_eq_append _
      _ = w.extractLsb' 8 8 ++ w.extractLsb' 0 8 := by rw [hb]; rfl
      _ = w := (word_eq_bytes w).symm
  · rintro ⟨hp, rfl⟩
    cases i with
    | put b => exact decodeP_rxWord b
    | _ => cases hp

/-- A port decodes a word to an operation exactly where the word is that operation's one word and the port its own. -/
theorem decodeOn_eq_instr_iff {p : Port} {w : Word} {i : Instr} :
    decodeOn p w = .instr i ↔ i.port = p ∧ encode i = w := by
  cases p with
  | consumer => exact decodeC_eq_instr_iff
  | producer => exact decodeP_eq_instr_iff

/-- Settles O2: decoding inverts encoding. -/
theorem decodeOfEncodeIsTheInstruction : Obligations.DecodeOfEncodeIsTheInstruction := fun _ =>
  decodeOn_eq_instr_iff.2 ⟨rfl, rfl⟩

/-- Settles O3: encoding inverts decoding. -/
theorem encodeOfDecodeIsTheWord : Obligations.EncodeOfDecodeIsTheWord := by
  intro p w i h
  obtain ⟨hp, hw⟩ := decodeOn_eq_instr_iff.1 h
  exact ⟨hw, by simp [Instr.wf, hp]⟩

/-! ## The opcode table (30_encoding.md R71) -/

/-- A mask of ones over the upper field compares that field. -/
theorem and_upperMask_eq_iff {m n : Nat} {a a' : BitVec m} {b : BitVec n} :
    (a ++ b) &&& (BitVec.allOnes m ++ 0#n) = a' ++ 0#n ↔ a = a' := by
  rw [BitVec.and_append, BitVec.and_allOnes, BitVec.and_zero, BitVec.append_left_inj]

/-- The mask 0xF000 compares `op`. -/
theorem and_opMask_eq_iff {w : Word} {op : BitVec 4} : w &&& 0xF000 = (op ++ 0#12 : Word) ↔ opField w = op := by
  conv_lhs => rw [word_eq_fields w]
  exact and_upperMask_eq_iff

/-- The mask 0xFF00 compares the upper byte. -/
theorem and_byteMask_eq_iff {w : Word} {hi : Byte} : w &&& 0xFF00 = (hi ++ 0#8 : Word) ↔ w.extractLsb' 8 8 = hi := by
  conv_lhs => rw [word_eq_bytes w]
  exact and_upperMask_eq_iff

theorem exists_decodeP_iff {w : Word} : (∃ i, decodeP w = .instr i) ↔ w.extractLsb' 8 8 = 0x20 := by
  unfold decodeP
  split_ifs with h <;> simpa using h

/-- The words the consumer port accepts: the three that stand alone, and those of op 4 and op 5. -/
theorem exists_decodeC_iff {w : Word} :
    (∃ i, decodeC w = .instr i) ↔ w = 0x0000 ∨ w = 0x1000 ∨ w = 0x3000 ∨ opField w = 0x4 ∨ opField w = 0x5 := by
  simp only [decodeC_eq_instr_iff]
  constructor
  · rintro ⟨i, hp, rfl⟩
    have hop := opField_encode i
    cases i with
    | nop => exact .inl rfl
    | init => exact .inr (.inl rfl)
    | put => cases hp
    | get => exact .inr (.inr (.inl rfl))
    | read => exact .inr (.inr (.inr (.inl hop)))
    | write => exact .inr (.inr (.inr (.inr hop)))
  · rintro (rfl | rfl | rfl | h | h)
    · exact ⟨.nop, rfl, rfl⟩
    · exact ⟨.init, rfl, rfl⟩
    · exact ⟨.get, rfl, rfl⟩
    · exact ⟨.read (xField w), rfl, encode_eq_of_fields h rfl⟩
    · exact ⟨.write (xField w), rfl, encode_eq_of_fields h rfl⟩

/-- Settles O4: the accepted words, with each field condition read as its mask. -/
theorem portsAcceptExactlyTheTableWords : Obligations.PortsAcceptExactlyTheTableWords := by
  intro w
  have hfull : w &&& 0xFFFF = w := BitVec.and_allOnes
  have hread : w &&& 0xF000 = 0x4000 ↔ opField w = 0x4 := and_opMask_eq_iff (op := 0x4)
  have hwrite : w &&& 0xF000 = 0x5000 ↔ opField w = 0x5 := and_opMask_eq_iff (op := 0x5)
  have hput : w &&& 0xFF00 = 0x2000 ↔ w.extractLsb' 8 8 = 0x20 := and_byteMask_eq_iff (hi := 0x20)
  rw [hfull, hread, hwrite, hput]
  exact ⟨exists_decodeC_iff, exists_decodeP_iff⟩

/-- Settles O1: the ten words, decoded. -/
theorem sampleWordsDecode : Obligations.SampleWordsDecode := by
  unfold Obligations.SampleWordsDecode
  decide

/-! ## Rejected words (30_encoding.md R79, R82; 60_exceptions.md R184) -/

theorem exists_illegal_iff {w : Word} : (∃ r, decodeC w = .illegal r) ↔ ∀ i, decodeC w ≠ .instr i := by
  cases decodeC w <;> simp

/-- Op 6 to F, an operand of NOP, INIT or GET, and an operand of op 2 above a byte spell no operation. -/
theorem exists_illegal_of_fields {op : BitVec 4} {x : Cnt}
    (h : 6 ≤ op ∨ ((op = 0 ∨ op = 1 ∨ op = 3) ∧ x ≠ 0) ∨ (op = 2 ∧ x.extractLsb' 8 4 ≠ 0)) :
    ∃ r, decodeC (op ++ x) = .illegal r := by
  rw [exists_illegal_iff]
  intro i hi
  obtain ⟨hop, hx, hp⟩ := fields_of_decodeC hi
  rw [opField_append] at hop
  rw [xField_append] at hx
  subst hop hx
  cases i with
  | put => cases hp
  | _ => simp [Instr.op, Instr.operand] at h

theorem exists_illegal_of_putWord (b : Byte) : ∃ r, decodeC (rxWord b) = .illegal r := by
  rw [exists_illegal_iff]
  intro i hi
  obtain ⟨hop, -, hp⟩ := fields_of_decodeC hi
  have hput : opField (rxWord b) = 0x2 := opField_encode (.put b)
  rw [hput] at hop
  cases i with
  | put => cases hp
  | _ => cases hop

theorem consumerWord_of_illegal {w : Word} {r : Reject} (h : decodeC w = .illegal r) (s : State) :
    consumerWord w s = .next (illegalC w s) := by
  simp [consumerWord, h]

theorem producerWord_of_upperByte {w : Word} (h : w.extractLsb' 8 8 ≠ 0x20) (s : State) :
    producerWord w s = .next (illegalP w s) := by
  simp only [producerWord, decodeP, if_neg h]

/-- Settles O5: no operation has such fields, and `illegalC` only answers. -/
theorem illegalConsumerWordOnlyAnswers : Obligations.IllegalConsumerWordOnlyAnswers :=
  ⟨fun _ _ h => exists_illegal_of_fields h,
    fun w _ s h => ⟨illegalC w s, consumerWord_of_illegal h s, List.prefix_append _ _, rfl⟩⟩

/-- Settles O6: PUT is the one operation of the producer port, and `illegalP` only records. -/
theorem portsCarryTheirOwnOperations : Obligations.PortsCarryTheirOwnOperations := by
  refine ⟨fun w i h => ?_, fun w i h b hb => ?_, fun b => ⟨decodeP_rxWord b, exists_illegal_of_putWord b⟩,
    fun w s h => producerWord_of_upperByte h s⟩
  · obtain ⟨hp, -⟩ := decodeP_eq_instr_iff.1 h
    cases i with
    | put b => exact ⟨b, rfl⟩
    | _ => cases hp
  · obtain ⟨hp, -⟩ := decodeC_eq_instr_iff.1 h
    subst hb
    cases hp

/-! ## Responses (30_encoding.md R80, R81) -/

/-- What a move from `s` to `t` does to RESPQ: nothing, where the sequencer stays as it is and a command taken faults;
nothing, where a command starts a READ or WRITE; or one response, with which the command or the READ or WRITE in progress
is done. No response has the status FULL (R81). -/
inductive ResponseCase (s : State) (m : Move) (t : State) : Prop where
  | silent (hr : t.respq = s.respq) (hq : t.cseq = s.cseq)
      (hf : m = .command → canStep m s = true → t.fault ≠ none)
  | started (hm : m = .command) (hi : s.cseq = .idle) (hr : t.respq = s.respq) (hq : t.cseq ≠ .idle)
  | answered (hm : m = .command ∨ m = .seqStep) (st : Status) (v : Cnt) (hst : st ≠ .full)
      (hr : t.respq = s.respq ++ [responseWord st v]) (hq : t.cseq = .idle) (hf : t.fault = s.fault)

theorem finishRead_responseCase {r : StopReason} (hr : t.respq = s.respq := by rfl) (hf : t.fault = s.fault := by rfl) :
    ResponseCase s .seqStep (finishRead r t) :=
  .answered (.inr rfl) .ok t.rdCnt (by decide) (by rw [finishRead_respq, hr]) rfl hf

theorem StepCase.responseCase (h : StepCase s m t) : ResponseCase s m t := by
  cases h with
  | pass m hc => exact .silent rfl rfl fun _ hc' => by simp [hc] at hc'
  | illegal w rest hq hi => exact .answered (.inl rfl) .illegal 0 (by decide) rfl hi rfl
  | getEmpty w rest hq hi => exact .answered (.inl rfl) .empty 0 (by decide) rfl hi rfl
  | nop w rest hq hi | init w rest hq hi | getOk w rest hq hi | readZero w rest hq hi | writeZero w rest hq hi =>
    exact .answered (.inl rfl) .ok _ (by decide) rfl hi rfl
  | readStart w rest hq hi | writeStart w rest hq hi => exact .started rfl hi rfl (by simp)
  | initRace | getUnwritten | readBounds | writeBounds => exact .silent rfl rfl fun _ _ => by simp
  | readEmpty => exact finishRead_responseCase
  | readByte hr he b =>
    rcases afterByte_cases b (record (.readByte b (crToLf b)) (s.removed.appended (crToLf b))) with
      ⟨-, e⟩ | ⟨-, -, e⟩ | ⟨-, -, e⟩ <;> rw [e]
    · exact finishRead_responseCase
    · exact finishRead_responseCase
    · exact .silent rfl rfl nofun
  | writeDone => exact .answered (.inr rfl) .ok s.wrTotal (by decide) rfl rfl rfl
  | _ => exact .silent rfl rfl nofun

theorem fault_none_of_canStep (h : canStep m s = true) : s.fault = none := by
  cases hf : s.fault with
  | none => rfl
  | some f => simp [canStep_of_fault hf] at h

/-- Settles O25: the cases of RESPQ, where a move that has a step starts without the fault mark. -/
theorem oneResponsePerCommand : Obligations.OneResponsePerCommand := by
  intro m s t h
  cases hc : canStep m s with
  | false =>
    rw [perform_pass hc] at h
    cases h
    exact .inl ⟨rfl, .inl rfl, nofun⟩
  | true =>
    cases (perform_cases h).responseCase with
    | silent hr hq hf => exact .inl ⟨hr, .inl hq, fun hm _ => .inr (hf hm hc)⟩
    | started hm hi hr hq => exact .inl ⟨hr, .inr ⟨hm, hi⟩, fun _ _ => .inl hq⟩
    | answered hm st v hst hr hq hf =>
      exact .inr ⟨hm, hq, hf.trans (fault_none_of_canStep hc), statusCode st, v, hr⟩

/-- The status of a response stands in bits 15:14 of its word, and bits 13:12 are zero (R80). -/
theorem responseWord_fields (st : Status) (v : Cnt) :
    (responseWord st v).extractLsb' 12 2 = 0 ∧ (responseWord st v).extractLsb' 14 2 = statusCode st := by
  constructor
  · calc (responseWord st v).extractLsb' 12 2 = (statusCode st ++ 0#2).extractLsb' 0 2 :=
          BitVec.extractLsb'_append_eq_of_le (by decide)
      _ = 0 := BitVec.extractLsb'_append_eq_right
  · calc (responseWord st v).extractLsb' 14 2 = (statusCode st ++ 0#2).extractLsb' 2 2 :=
          BitVec.extractLsb'_append_eq_of_le (by decide)
      _ = statusCode st := BitVec.extractLsb'_append_eq_left

theorem statusCode_ne_full {st : Status} (h : st ≠ .full) : statusCode st ≠ statusCode .full := by
  cases st with
  | full => exact absurd rfl h
  | _ => decide

theorem responsesOk_congr (h : ResponsesOk s) (hr : t.respq = s.respq) : ResponsesOk t := by
  simpa [ResponsesOk, hr] using h

theorem responsesOk_append (h : ResponsesOk s) {st : Status} {v : Cnt} (hst : st ≠ .full)
    (hr : t.respq = s.respq ++ [responseWord st v]) : ResponsesOk t := by
  intro w hw
  rw [hr, List.mem_append, List.mem_singleton] at hw
  obtain hw | rfl := hw
  · exact h w hw
  · obtain ⟨hzero, hcode⟩ := responseWord_fields st v
    exact ⟨hzero, hcode ▸ statusCode_ne_full hst⟩

theorem StepCase.responsesOk (hs : ResponsesOk s) (h : StepCase s m t) : ResponsesOk t := by
  cases h.responseCase with
  | silent hr | started _ _ hr => exact responsesOk_congr hs hr
  | answered _ st v hst hr => exact responsesOk_append hs hst hr

/-- Settles O50: a step appends at most one response, and none with the status FULL. -/
theorem everyStepKeepsResponsesLegal : Obligations.EveryStepKeepsResponsesLegal := by
  intro s t hs h
  obtain ⟨-, m, -, hc⟩ := step_cases h
  exact hc.responsesOk (responsesOk_congr hs (takeMove_respq s))

end Sys2Proof.Machine

/-! SUPPORT. Proofs about the ring buffer (40_ring_buffer.md): what a move does to the buffer, the pointer order, the FIFO
law and the distances. -/

namespace Sys2Proof.Machine

variable {s t u : State} {m : Move}

/-! ## What a move does to the buffer -/

/-- `t` has the parameters, slots, pointers, copies and counters of `s`, and its history tells of the same PUTs, removals
and INITs. -/
structure SameBuffer (s t : State) : Prop where
  cfg : t.cfg = s.cfg := by rfl
  mem : t.mem = s.mem := by rfl
  head : t.head = s.head := by rfl
  tail : t.tail = s.tail := by rfl
  headSync : t.headSync = s.headSync := by rfl
  tailSync : t.tailSync = s.tailSync := by rfl
  ghostH : t.ghostH = s.ghostH := by rfl
  ghostT : t.ghostT = s.ghostT := by rfl
  ghostHs : t.ghostHs = s.ghostHs := by rfl
  ghostTs : t.ghostTs = s.ghostTs := by rfl
  puts : putsSinceInit t.history = putsSinceInit s.history := by rfl
  removed : removedSinceInit t.history = removedSinceInit s.history := by rfl
  inits : initCount t = initCount s := by rfl

theorem initCount_record (e : Event) (s : State) :
    initCount (record e s) = initCount s + if e = .init then 1 else 0 := by
  simp [initCount, List.count_singleton]

namespace SameBuffer

theorem trans (h : SameBuffer s t) (k : SameBuffer t u) : SameBuffer s u where
  cfg := k.cfg.trans h.cfg
  mem := k.mem.trans h.mem
  head := k.head.trans h.head
  tail := k.tail.trans h.tail
  headSync := k.headSync.trans h.headSync
  tailSync := k.tailSync.trans h.tailSync
  ghostH := k.ghostH.trans h.ghostH
  ghostT := k.ghostT.trans h.ghostT
  ghostHs := k.ghostHs.trans h.ghostHs
  ghostTs := k.ghostTs.trans h.ghostTs
  puts := k.puts.trans h.puts
  removed := k.removed.trans h.removed
  inits := k.inits.trans h.inits

/-- Recording an event that is no successful PUT, no removal and no INIT. -/
theorem record (h : SameBuffer s t) {e : Event} (hp : ∀ acc, putsStep acc e = acc := by exact fun _ => rfl)
    (hr : ∀ acc, removedStep acc e = acc := by exact fun _ => rfl) (hi : e ≠ .init := by nofun) :
    SameBuffer s (record e t) :=
  h.trans { puts := by simp [hp], removed := by simp [hr], inits := by simp [initCount_record, hi] }

theorem respond (h : SameBuffer s t) {st : Status} {v : Cnt} : SameBuffer s (respond st v t) :=
  (h.record (e := .resp (responseWord st v))).trans {}

theorem raiseFault (h : SameBuffer s t) {f : Fault} : SameBuffer s (raiseFault f t) :=
  (h.record (e := .fault f)).trans {}

theorem finishRead (h : SameBuffer s t) {r : StopReason} : SameBuffer s (finishRead r t) :=
  (h.record (e := .readStop r t.rdCnt)).respond.trans {}

theorem finishWrite (h : SameBuffer s t) : SameBuffer s (finishWrite t) :=
  (h.record (e := .writeDone t.wrTotal)).respond.trans {}

theorem afterByte (h : SameBuffer s t) {b : Byte} : SameBuffer s (afterByte b t) := by
  rcases afterByte_cases b t with ⟨-, e⟩ | ⟨-, -, e⟩ | ⟨-, -, e⟩ <;> rw [e]
  · exact h.finishRead
  · exact h.finishRead
  · exact h

theorem takeMove : SameBuffer s (takeMove s) := by
  unfold Machine.takeMove
  split <;> exact {}

end SameBuffer

/-- The state with `b` stored in slot `head` (40_ring_buffer.md R102). -/
abbrev State.stored (s : State) (b : Byte) : State :=
  { s with mem := Memory.write s.mem s.head b, head := inc s.cfg s.head, ghostH := s.ghostH + 1 }

/-- What a move does to the buffer, whatever else it does: nothing, or one successful PUT, one removal (by GET or READ;
written here with GET's event), one synchroniser step, or an INIT. -/
inductive BufferCase (s t : State) : Prop where
  | kept (h : SameBuffer s t)
  | put (b : Byte) (hf : fullW s = false) (h : SameBuffer (record (.put b .ok) (s.stored b)) t)
  | removed (b : Byte) (he : emptyR s = false) (hm : Memory.read s.mem s.tail = some b)
      (h : SameBuffer (record (.getOk b) s.removed) t)
  | w2r (j : Nat) (hj : canW2R j s = true) (h : SameBuffer (syncW2R j s) t)
  | r2w (j : Nat) (hj : canR2W j s = true) (h : SameBuffer (syncR2W j s) t)
  | init (h : SameBuffer (record .init (initBuffer s)) t)

theorem StepCase.bufferCase (h : StepCase s m t) : BufferCase s t := by
  cases h with
  | pass | rxEn | receive | submit | supplyOut | supplySrc | writeOffer => exact .kept {}
  | w2r j h => exact .w2r j h {}
  | w2rAll h => exact .w2r _ h {}
  | r2w j h => exact .r2w j h {}
  | r2wAll h => exact .r2w _ h {}
  | putOk b rest hq hen hf => exact .put b hf {}
  | init => exact .init (.respond {})
  | getOk w rest hq hi hd he b hm => exact .removed b he hm (.respond {})
  | readByte hr he b hm hl =>
    exact .removed b he hm (.afterByte
      { puts := by simp [putsStep], removed := by simp [removedStep], inits := by simp [initCount] })
  | accept | putFull | readStart | writeStart => exact .kept (.record {})
  | nop => exact .kept (.respond {})
  | illegal | getEmpty => exact .kept (.respond (.record {}))
  | readZero | writeZero => exact .kept (.respond (.record (.record {})))
  | initRace | getUnwritten | readBounds | writeBounds | readUnwritten | readNoRoom | writeNoByte =>
    exact .kept (.raiseFault {})
  | readEmpty => exact .kept (.finishRead {})
  | writeDone => exact .kept (.finishWrite {})

/-! ## The pointer order (40_ring_buffer.md R120) -/

/-- The pointer order of a LAGGED implementation, in its own copies. -/
theorem pointerOrder_iff_of_lagged (hl : s.cfg.syncModel = .lagged) :
    PointerOrder s ↔ s.cfg.wf = true ∧ s.head = s.ghostH % s.cfg.N ∧ s.tail = s.ghostT % s.cfg.N ∧
      s.headSync = s.ghostHs % s.cfg.N ∧ s.tailSync = s.ghostTs % s.cfg.N ∧
      s.ghostTs ≤ s.ghostT ∧ s.ghostT ≤ s.ghostHs ∧ s.ghostHs ≤ s.ghostH ∧ s.ghostH ≤ s.ghostTs + s.cfg.N - 1 := by
  have hv : headView s = s.headSync ∧ tailView s = s.tailSync ∧ ghostHsView s = s.ghostHs ∧
      ghostTsView s = s.ghostTs := by
    simp [headView, tailView, ghostHsView, ghostTsView, hl]
  obtain ⟨hh, ht, hgh, hgt⟩ := hv
  rw [← hh, ← ht, ← hgh, ← hgt]
  exact ⟨fun ⟨a, b, c, d, e, f, g, i, j⟩ => ⟨a, b, c, d, e, f, g, i, j⟩,
    fun ⟨a, b, c, d, e, f, g, i, j⟩ => ⟨a, b, c, d, e, f, g, i, j⟩⟩

/-- The pointer order of an IMMEDIATE implementation, where each side sees the live pointers. -/
theorem pointerOrder_iff_of_immediate (hl : s.cfg.syncModel = .immediate) :
    PointerOrder s ↔ s.cfg.wf = true ∧ s.head = s.ghostH % s.cfg.N ∧ s.tail = s.ghostT % s.cfg.N ∧
      s.ghostT ≤ s.ghostH ∧ s.ghostH ≤ s.ghostT + s.cfg.N - 1 := by
  have hv : headView s = s.head ∧ tailView s = s.tail ∧ ghostHsView s = s.ghostH ∧ ghostTsView s = s.ghostT := by
    simp [headView, tailView, ghostHsView, ghostTsView, hl]
  obtain ⟨hh, ht, hgh, hgt⟩ := hv
  constructor
  · rintro ⟨hcfg, hhead, htail, -, -, -, hth, -, hle⟩
    exact ⟨hcfg, hhead, htail, hgh ▸ hth, hgt ▸ hle⟩
  · rintro ⟨hcfg, hhead, htail, hth, hle⟩
    exact ⟨hcfg, hhead, htail, by rw [hh, hgh, hhead], by rw [ht, hgt, htail], hgt.le, hgh ▸ hth, hgh.le, hgt ▸ hle⟩

theorem SameBuffer.pointerOrder (h : SameBuffer s t) (ho : PointerOrder s) : PointerOrder t :=
  pointerOrder_congr ho h.cfg h.head h.tail h.headSync h.tailSync h.ghostH h.ghostT h.ghostHs h.ghostTs

/-- Where the write side sees room, fewer than N − 1 bytes are stored as far as it knows. -/
theorem lt_of_fullW (h : PointerOrder s) (hf : fullW s = false) : s.ghostH < ghostTsView s + s.cfg.N - 1 :=
  lt_of_le_of_ne h.hTs fun e => by simp [(fullW_iff h).2 e] at hf

/-- Where the read side sees a byte, one is left that it knows of. -/
theorem lt_of_emptyR (h : PointerOrder s) (he : emptyR s = false) : s.ghostT < ghostHsView s :=
  lt_of_le_of_ne h.tHs fun e => by simp [(emptyR_iff h).2 e] at he

theorem PointerOrder.put (h : PointerOrder s) (hf : fullW s = false) (b : Byte) :
    PointerOrder (record (.put b .ok) (s.stored b)) := by
  have hlt := lt_of_fullW h hf
  have hhead : inc s.cfg s.head = (s.ghostH + 1) % s.cfg.N := by rw [h.head, inc_mod]
  cases hl : s.cfg.syncModel with
  | lagged =>
    simp only [ghostTsView, hl] at hlt
    obtain ⟨hcfg, -, htail, hhs, hts, h1, h2, h3, -⟩ := (pointerOrder_iff_of_lagged hl).1 h
    exact (pointerOrder_iff_of_lagged (by exact hl)).2
      ⟨hcfg, hhead, htail, hhs, hts, h1, h2, Nat.le_succ_of_le h3, hlt⟩
  | immediate =>
    simp only [ghostTsView, hl] at hlt
    obtain ⟨hcfg, -, htail, hle, -⟩ := (pointerOrder_iff_of_immediate hl).1 h
    exact (pointerOrder_iff_of_immediate (by exact hl)).2
      ⟨hcfg, hhead, htail, Nat.le_succ_of_le hle, hlt⟩

theorem PointerOrder.removed (h : PointerOrder s) (he : emptyR s = false) (b : Byte) :
    PointerOrder (record (.getOk b) s.removed) := by
  have hlt := lt_of_emptyR h he
  have htail : inc s.cfg s.tail = (s.ghostT + 1) % s.cfg.N := by rw [h.tail, inc_mod]
  cases hl : s.cfg.syncModel with
  | lagged =>
    simp only [ghostHsView, hl] at hlt
    obtain ⟨hcfg, hhead, -, hhs, hts, h1, -, h3, h4⟩ := (pointerOrder_iff_of_lagged hl).1 h
    exact (pointerOrder_iff_of_lagged (by exact hl)).2
      ⟨hcfg, hhead, htail, hhs, hts, Nat.le_succ_of_le h1, hlt, h3, h4⟩
  | immediate =>
    simp only [ghostHsView, hl] at hlt
    obtain ⟨hcfg, hhead, -, -, hle⟩ := (pointerOrder_iff_of_immediate hl).1 h
    exact (pointerOrder_iff_of_immediate (by exact hl)).2
      ⟨hcfg, hhead, htail, hlt, by show s.ghostH ≤ s.ghostT + 1 + s.cfg.N - 1; omega⟩

/-- No choice of SYNC_W2R passes `head` (R110). -/
theorem ghostHs_add_le (h : PointerOrder s) {j : Nat} (hj : canW2R j s = true) : s.ghostHs + j ≤ s.ghostH := by
  obtain ⟨hl, -, -, hle⟩ := (canW2R_iff j s).1 hj
  obtain ⟨-, hhead, -, hhs, -, h1, h2, h3, h4⟩ := (pointerOrder_iff_of_lagged hl).1 h
  have hN := N_pos s.cfg
  rw [hhead, hhs, ptrDist_mod _ h3 (by omega)] at hle
  omega

/-- No choice of SYNC_R2W passes `tail` (R111). -/
theorem ghostTs_add_le (h : PointerOrder s) {j : Nat} (hj : canR2W j s = true) : s.ghostTs + j ≤ s.ghostT := by
  obtain ⟨hl, -, -, hle⟩ := (canR2W_iff j s).1 hj
  obtain ⟨-, -, htail, -, hts, h1, h2, h3, h4⟩ := (pointerOrder_iff_of_lagged hl).1 h
  have hN := N_pos s.cfg
  rw [htail, hts, ptrDist_mod _ h1 (by omega)] at hle
  omega

theorem PointerOrder.w2r (h : PointerOrder s) {j : Nat} (hj : canW2R j s = true) : PointerOrder (syncW2R j s) := by
  have hle := ghostHs_add_le h hj
  obtain ⟨hl, -⟩ := (canW2R_iff j s).1 hj
  obtain ⟨hcfg, hhead, htail, hhs, hts, h1, h2, -, h4⟩ := (pointerOrder_iff_of_lagged hl).1 h
  exact (pointerOrder_iff_of_lagged (by exact hl)).2
    ⟨hcfg, hhead, htail, by simp [hhs], hts, h1, Nat.le_add_right_of_le h2, hle, h4⟩

theorem PointerOrder.r2w (h : PointerOrder s) {j : Nat} (hj : canR2W j s = true) : PointerOrder (syncR2W j s) := by
  have hle := ghostTs_add_le h hj
  obtain ⟨hl, -⟩ := (canR2W_iff j s).1 hj
  obtain ⟨hcfg, hhead, htail, hhs, hts, -, h2, h3, h4⟩ := (pointerOrder_iff_of_lagged hl).1 h
  exact (pointerOrder_iff_of_lagged (by exact hl)).2
    ⟨hcfg, hhead, htail, hhs, by simp [hts], hle, h2, h3, by
    show s.ghostH ≤ s.ghostTs + j + s.cfg.N - 1; omega⟩

/-- All pointers, copies and counters zero: the state after reset and after INIT. -/
theorem pointerOrder_of_zero (hc : s.cfg.wf = true) (hh : s.head = 0 := by rfl) (ht : s.tail = 0 := by rfl)
    (hhs : s.headSync = 0 := by rfl) (hts : s.tailSync = 0 := by rfl) (gH : s.ghostH = 0 := by rfl)
    (gT : s.ghostT = 0 := by rfl) (gHs : s.ghostHs = 0 := by rfl) (gTs : s.ghostTs = 0 := by rfl) :
    PointerOrder s := by
  cases hl : s.cfg.syncModel with
  | lagged => rw [pointerOrder_iff_of_lagged hl]; simp [*]
  | immediate => rw [pointerOrder_iff_of_immediate hl]; simp [*]

theorem BufferCase.pointerOrder (ho : PointerOrder s) (h : BufferCase s t) : PointerOrder t := by
  cases h with
  | kept h => exact h.pointerOrder ho
  | put b hf h => exact h.pointerOrder (ho.put hf b)
  | removed b he hm h => exact h.pointerOrder (ho.removed he b)
  | w2r j hj h => exact h.pointerOrder (ho.w2r hj)
  | r2w j hj h => exact h.pointerOrder (ho.r2w hj)
  | init h => exact h.pointerOrder (pointerOrder_of_zero ho.cfg)

/-- Settles O35: zero counters are in order, and so are the counters after each thing a move can do to the buffer. -/
theorem everyStepKeepsThePointerOrder : Obligations.EveryStepKeepsThePointerOrder := by
  refine ⟨fun c hc => pointerOrder_of_zero hc, fun s t ho h => ?_⟩
  obtain ⟨-, m, -, hc⟩ := step_cases h
  exact hc.bufferCase.pointerOrder (SameBuffer.takeMove.pointerOrder ho)

/-! ## Distances and free slots (R121, R123) -/

theorem PointerOrder.tail_lt (h : PointerOrder s) : s.tail < s.cfg.N :=
  h.tail ▸ Nat.mod_lt _ (N_pos s.cfg)

/-- Settles O36: every two counters of the chain are less than N apart, in order. -/
theorem distancesAreExact : Obligations.DistancesAreExact := by
  intro s h
  have hN := two_le_N h.cfg
  have h1 := h.tsT
  have h2 := h.tHs
  have h3 := h.hsH
  have h4 := h.hTs
  rw [h.headView, h.tailView]
  refine ⟨?_, ?_, ?_, ?_, ?_, h.head_lt, h.tail_lt⟩
  all_goals
    simp only [h.head, h.tail]
    exact ptrDist_mod _ (by omega) (by omega)

/-- No byte still to be removed stands in slot `head`: H and the numbers T to H − 1 are less than N apart. -/
theorem mod_ne_head (h : PointerOrder s) {k : Nat} (hT : s.ghostT ≤ k) (hH : k < s.ghostH) : k % s.cfg.N ≠ s.head := by
  obtain ⟨-, hlt⟩ := stored_bounds h
  rw [h.head]
  intro e
  exact absurd (eq_of_mod_eq hH.le (by omega) e) hH.ne

/-- Settles O42: the bound is that of a buffer not seen full, and slot `head` is free. -/
theorem putOverwritesNoUnreadByte : Obligations.PutOverwritesNoUnreadByte := by
  intro s h hf
  have hlt := lt_of_fullW h hf
  have hle := h.tsT
  exact ⟨by omega, by omega, fun k => mod_ne_head h⟩

/-! ## The FIFO law (R122, R124, R125) -/

/-- The FIFO law reads only the number of slots, RBMEM, the live counters, and the PUTs and removals of the history. -/
theorem fifoOrder_congr (h : FifoOrder s) (hc : t.cfg = s.cfg) (hm : t.mem = s.mem) (gH : t.ghostH = s.ghostH)
    (gT : t.ghostT = s.ghostT) (hp : putsSinceInit t.history = putsSinceInit s.history)
    (hr : removedSinceInit t.history = removedSinceInit s.history) : FifoOrder t := by
  obtain ⟨hputs, hremoved, hstored⟩ := h
  constructor <;> simp only [hc, hm, gH, gT, hp, hr] <;> assumption

theorem SameBuffer.fifoOrder (h : SameBuffer s t) (hq : FifoOrder s) : FifoOrder t :=
  fifoOrder_congr hq h.cfg h.mem h.ghostH h.ghostT h.puts h.removed

/-- Where PUT number T has happened, its byte stands in slot `tail`. -/
theorem read_tail (ho : PointerOrder s) (hq : FifoOrder s) (hlt : s.ghostT < s.ghostH) :
    Memory.read s.mem s.tail = (putsSinceInit s.history)[s.ghostT]? :=
  ho.tail ▸ hq.stored s.ghostT le_rfl hlt

theorem FifoOrder.put (ho : PointerOrder s) (hq : FifoOrder s) (b : Byte) :
    FifoOrder (record (.put b .ok) (s.stored b)) := by
  obtain ⟨hle, -⟩ := stored_bounds ho
  have hputs : putsSinceInit (s.history ++ [.put b .ok]) = putsSinceInit s.history ++ [b] := by simp [putsStep]
  refine ⟨?_, ?_, fun k hT hH => ?_⟩ <;> simp only [record_history, record_ghostH, record_ghostT, hputs]
  · simp [hq.puts]
  · rw [List.take_append_of_le_length (by rw [hq.puts]; exact hle), ← hq.removed]
    simp [removedStep]
  · show Memory.read (Memory.write s.mem s.head b) (k % s.cfg.N) = _
    obtain hlt | rfl := Nat.lt_succ_iff_lt_or_eq.1 hH
    · rw [read_write_other _ _ (mod_ne_head ho hT hlt), hq.stored k hT hlt,
        List.getElem?_append_left (hq.puts ▸ hlt)]
    · rw [← ho.head, read_write_same, ← hq.puts, List.getElem?_concat_length]

theorem FifoOrder.getOk (ho : PointerOrder s) (hq : FifoOrder s) {b : Byte} (he : emptyR s = false)
    (hm : Memory.read s.mem s.tail = some b) : FifoOrder (record (.getOk b) s.removed) := by
  have hlt : s.ghostT < s.ghostH := (lt_of_emptyR ho he).trans_le ho.hsH
  have hb : (putsSinceInit s.history)[s.ghostT]? = some b := (read_tail ho hq hlt).symm.trans hm
  have hputs : putsSinceInit (s.history ++ [.getOk b]) = putsSinceInit s.history := by simp [putsStep]
  refine ⟨?_, ?_, fun k hT hH => ?_⟩ <;> simp only [record_history, record_ghostH, record_ghostT, hputs]
  · exact hq.puts
  · rw [List.take_add_one, hb, ← hq.removed]
    simp [removedStep]
  · exact hq.stored k (Nat.le_of_succ_le hT) hH

/-- Nothing put since the last INIT, and nothing removed. -/
theorem fifoOrder_of_none (gH : s.ghostH = 0) (hp : putsSinceInit s.history = [])
    (hr : removedSinceInit s.history = []) : FifoOrder s :=
  ⟨by simp [hp, gH], by simp [hp, hr], by simp [gH]⟩

theorem BufferCase.fifoOrder (ho : PointerOrder s) (hq : FifoOrder s) (h : BufferCase s t) : FifoOrder t := by
  cases h with
  | kept h => exact h.fifoOrder hq
  | put b hf h => exact h.fifoOrder (hq.put ho b)
  | removed b he hm h => exact h.fifoOrder (hq.getOk ho he hm)
  | w2r j hj h =>
    exact h.fifoOrder (fifoOrder_congr hq rfl rfl rfl rfl (by simp [putsStep]) (by simp [removedStep]))
  | r2w j hj h =>
    exact h.fifoOrder (fifoOrder_congr hq rfl rfl rfl rfl (by simp [putsStep]) (by simp [removedStep]))
  | init h => exact h.fifoOrder (fifoOrder_of_none rfl (by simp [putsStep]) (by simp [removedStep]))

/-- Settles O39: a PUT writes slot `head`, which holds no byte to be removed, and a removal takes PUT number T. -/
theorem everyStepKeepsTheFifoLaw : Obligations.EveryStepKeepsTheFifoLaw := by
  refine ⟨fun c => fifoOrder_of_none rfl rfl rfl, fun s t ho hq h => ?_⟩
  obtain ⟨-, m, -, hc⟩ := step_cases h
  exact hc.bufferCase.fifoOrder (SameBuffer.takeMove.pointerOrder ho) (SameBuffer.takeMove.fifoOrder hq)

/-- A list from position `k` on, read entry by entry. -/
theorem filterMap_range_getElem? {α : Type} (l : List α) (k : Nat) :
    (List.range (l.length - k)).filterMap (fun i => l[k + i]?) = l.drop k := by
  have hmap : (l.drop k).length = l.length - k := List.length_drop
  rw [← hmap]
  simp only [← List.getElem?_drop]
  generalize l.drop k = d
  induction d with
  | nil => rfl
  | cons x xs ih => simp [List.range_succ_eq_map, List.filterMap_map, ih]

theorem storedBytes_eq_drop (ho : PointerOrder s) (hq : FifoOrder s) :
    storedBytes s = (putsSinceInit s.history).drop s.ghostT := by
  obtain ⟨hdist, -⟩ := distancesAreExact s ho
  rw [storedBytes, hdist, ← filterMap_range_getElem?, hq.puts]
  refine List.filterMap_congr fun i hi => ?_
  have hlt := List.mem_range.1 hi
  rw [ho.tail, Nat.mod_add_mod]
  exact hq.stored _ (Nat.le_add_right _ _) (by omega)

/-- Settles O40: the slots from `tail` to `head` are those of PUTs T to H − 1. -/
theorem storedBytesAreThePutsNotYetRemoved : Obligations.StoredBytesAreThePutsNotYetRemoved := by
  intro s ho hq
  rw [storedBytes_eq_drop ho hq, List.length_drop, hq.puts]
  exact ⟨rfl, rfl⟩

@[simp] theorem afterByte_fault (b : Byte) (s : State) : (afterByte b s).fault = s.fault := by
  rw [afterByte_frame]

/-- A move marks UNWRITTEN_SLOT only where the read side sees a byte in a slot that is unwritten. -/
theorem StepCase.unwrittenSlot (h : StepCase s m t) (hf : s.fault = none) (ht : t.fault = some .unwrittenSlot) :
    emptyR s = false ∧ Memory.read s.mem s.tail = none := by
  cases h with
  | getUnwritten w rest hq hi hd he hm => exact ⟨he, hm⟩
  | readUnwritten hr he hm => exact ⟨he, hm⟩
  | readByte => simp [hf] at ht
  | _ => simp [illegalC, hf] at ht

/-- Where the read side sees a byte, slot `tail` holds the oldest byte not yet removed. -/
theorem exists_oldest (ho : PointerOrder s) (hq : FifoOrder s) (he : emptyR s = false) :
    ∃ b, (putsSinceInit s.history)[s.ghostT]? = some b ∧ Memory.read s.mem s.tail = some b := by
  have hlt : s.ghostT < s.ghostH := (lt_of_emptyR ho he).trans_le ho.hsH
  have hb := List.getElem?_eq_getElem (hq.puts ▸ hlt)
  exact ⟨_, hb, (read_tail ho hq hlt).trans hb⟩

/-- Settles O41: slot `tail` of a byte the read side sees is written. -/
theorem unwrittenSlotIsUnreachable : Obligations.UnwrittenSlotIsUnreachable := by
  intro s t ho hq h ht
  obtain ⟨hf, m, -, hc⟩ := step_cases h
  obtain ⟨he, hm⟩ := hc.unwrittenSlot (by simpa using hf) ht
  obtain ⟨b, -, hb⟩ :=
    exists_oldest (SameBuffer.takeMove.pointerOrder ho) (SameBuffer.takeMove.fifoOrder hq) he
  exact absurd (hm.symm.trans hb) (by simp)

end Sys2Proof.Machine

/-! SUPPORT. Proofs about the ring-buffer operations (40_ring_buffer.md R95 to R104): what each operation does, and
which one a scheduled agent runs. -/

namespace Sys2Proof.Machine

variable {s t : State} {m : Move}

/-! ## One rule per outcome of an operation or a sequencer step -/

theorem fullW_eq_true_iff : fullW s = true ↔ (s.head + 1) % s.cfg.N = tailView s := beq_iff_eq

theorem fullW_eq_false_iff : fullW s = false ↔ (s.head + 1) % s.cfg.N ≠ tailView s := beq_eq_false_iff_ne

theorem emptyR_eq_true_iff : emptyR s = true ↔ s.tail = headView s := beq_iff_eq

theorem emptyR_eq_false_iff : emptyR s = false ↔ s.tail ≠ headView s := beq_eq_false_iff_ne

theorem exec_init_of_disabled (h : s.rxEn = false) :
    exec .init s = .next (respond .ok 0 (record .init (initBuffer s))) := by
  simp [exec, execInit, h]

theorem exec_init_of_enabled (h : s.rxEn = true) : exec .init s = .next (raiseFault .initRace s) := by
  simp [exec, execInit, h]

theorem exec_put_of_full (h : fullW s = true) (b : Byte) :
    exec (.put b) s = .next (record (.put b .full)
      { s with ovrCnt := if s.cfg.overrunCounter then s.ovrCnt + 1 else s.ovrCnt }) := by
  simp [exec, execPut, h]

theorem exec_put_of_room (h : fullW s = false) (b : Byte) :
    exec (.put b) s = .next (record (.put b .ok) (s.stored b)) := by
  simp [exec, execPut, h]

theorem removeByte_of_byte (h : emptyR s = false) {b : Byte} (hm : Memory.read s.mem s.tail = some b) :
    removeByte s = .byte b s.removed := by
  simp [removeByte, h, hm]

theorem exec_get_of_empty (h : emptyR s = true) :
    exec .get s = .next (respond .empty 0 (record .getEmpty s)) := by
  simp [exec, execGet, removeByte, h]

theorem exec_get_of_unwritten (h : emptyR s = false) (hm : Memory.read s.mem s.tail = none) :
    exec .get s = .next (raiseFault .unwrittenSlot s) := by
  simp [exec, execGet, removeByte, h, hm]

theorem exec_get_of_byte (h : emptyR s = false) {b : Byte} (hm : Memory.read s.mem s.tail = some b) :
    exec .get s = .next (respond .ok (zext12 b) (record (.getOk b) s.removed)) := by
  rw [exec, execGet, removeByte_of_byte h hm]

theorem exec_read_of_short {m : Cnt} (h : s.hostOut.length < m.toNat) :
    exec (.read m) s = .next (raiseFault .hostbufBounds s) := by
  simp [exec, execRead, h]

theorem exec_read_zero (s : State) :
    exec (.read 0) s = .next (respond .ok 0 (record (.readStop .max 0) (record (.readStart 0) s))) := by
  simp [exec, execRead]

theorem exec_read_of_room {m : Cnt} (h : m.toNat ≤ s.hostOut.length) (h0 : m ≠ 0) :
    exec (.read m) s = .next (record (.readStart m) { s with rdMax := m, rdCnt := 0, cseq := .read }) := by
  rw [exec, execRead, if_neg h.not_gt, if_neg h0]

theorem exec_write_of_short {c : Cnt} (h : s.hostSrc.length < c.toNat) :
    exec (.write c) s = .next (raiseFault .hostbufBounds s) := by
  simp [exec, execWrite, h]

theorem exec_write_zero (s : State) :
    exec (.write 0) s = .next (respond .ok 0 (record (.writeDone 0) (record (.writeStart 0) s))) := by
  simp [exec, execWrite]

theorem exec_write_of_room {c : Cnt} (h : c.toNat ≤ s.hostSrc.length) (h0 : c ≠ 0) :
    exec (.write c) s = .next (record (.writeStart c) { s with wrTotal := c, wrIdx := 0, cseq := .write }) := by
  rw [exec, execWrite, if_neg h.not_gt, if_neg h0]

theorem readStep_of_empty (h : emptyR s = true) : readStep s = finishRead .empty s := by
  simp [readStep, removeByte, h]

theorem readStep_of_unwritten (h : emptyR s = false) (hm : Memory.read s.mem s.tail = none) :
    readStep s = raiseFault .unwrittenSlot s := by
  simp [readStep, removeByte, h, hm]

theorem readStep_of_noRoom (h : emptyR s = false) {b : Byte} (hm : Memory.read s.mem s.tail = some b)
    (hl : s.hostOut.length ≤ s.rdCnt.toNat) : readStep s = raiseFault .hostbufBounds s := by
  simp only [readStep, removeByte_of_byte h hm, appendOut, if_neg hl.not_gt]

theorem readStep_of_byte (h : emptyR s = false) {b : Byte} (hm : Memory.read s.mem s.tail = some b)
    (hl : s.rdCnt.toNat < s.hostOut.length) :
    readStep s = afterByte b (record (.readByte b (crToLf b)) (s.removed.appended (crToLf b))) := by
  simp only [readStep, removeByte_of_byte h hm, appendOut, if_pos hl]

theorem writeStep_of_noByte (h : s.wrIdx < s.wrTotal) (hb : s.hostSrc[s.wrIdx.toNat]? = none) :
    writeStep s = raiseFault .hostbufBounds s := by
  simp only [writeStep, if_pos h, hb]

theorem writeStep_of_byte (h : s.wrIdx < s.wrTotal) {b : Byte} (hb : s.hostSrc[s.wrIdx.toNat]? = some b) :
    writeStep s = { emitTx b s with wrIdx := s.wrIdx + 1 } := by
  simp only [writeStep, if_pos h, hb]

theorem writeStep_of_end (h : ¬ s.wrIdx < s.wrTotal) : writeStep s = finishWrite s := if_neg h

/-! ## NOP, INIT, PUT and GET -/

/-- Settles O7: NOP only responds. -/
theorem nopAnswersAndChangesNothing : Obligations.NopAnswersAndChangesNothing :=
  ⟨decodeC_encode (i := .nop) rfl, fun _ hx => exists_illegal_of_fields (.inr (.inl ⟨.inl rfl, hx⟩)),
    fun s => ⟨respond .ok 0 s, rfl, List.prefix_append _ _, rfl, rfl, rfl⟩⟩

theorem headView_of_zero (hh : s.head = 0) (hs : s.headSync = 0) : headView s = 0 := by
  unfold headView
  split <;> assumption

theorem tailView_of_zero (ht : s.tail = 0) (hs : s.tailSync = 0) : tailView s = 0 := by
  unfold tailView
  split <;> assumption

/-- With at least two slots, slot 1 is not slot 0. -/
theorem fullW_of_zero (hc : s.cfg.wf = true) (hh : s.head = 0) (ht : s.tail = 0) (hs : s.tailSync = 0) :
    fullW s = false := by
  rw [fullW_eq_false_iff, tailView_of_zero ht hs, hh, Nat.mod_eq_of_lt (two_le_N hc)]
  decide

/-- Settles O8: INIT zeroes the buffer, or marks the race. -/
theorem initResetsTheBuffer : Obligations.InitResetsTheBuffer :=
  ⟨decodeC_encode (i := .init) rfl, fun _ hx => exists_illegal_of_fields (.inr (.inl ⟨.inr (.inl rfl), hx⟩)),
    fun _ hen => exec_init_of_enabled hen,
    fun _ hen => ⟨_, exec_init_of_disabled hen, List.prefix_append _ _, fun _ => rfl, rfl,
      emptyR_eq_true_iff.2 (headView_of_zero rfl rfl).symm, fun hc => fullW_of_zero hc rfl rfl rfl⟩⟩

theorem emptyR_stored (hl : s.cfg.syncModel = .lagged) (b : Byte) : emptyR (s.stored b) = emptyR s := by
  simp [emptyR, headView, hl]

theorem fullW_removed (hl : s.cfg.syncModel = .lagged) : fullW s.removed = fullW s := by
  simp [fullW, tailView, hl]

/-- Settles O9: PUT writes slot `head`, or drops the byte. -/
theorem putStoresOrDrops : Obligations.PutStoresOrDrops :=
  ⟨decodeP_rxWord,
    fun b _ hf => exec_put_of_full (fullW_eq_true_iff.2 hf) b,
    fun b s hf => ⟨_, exec_put_of_room (fullW_eq_false_iff.2 hf) b, rfl, read_write_same s.mem s.head b,
      fun _ => read_write_other s.mem b, fun hl => emptyR_stored hl b⟩⟩

/-- Settles O10: GET answers the byte at slot `tail`, answers EMPTY, or marks the unwritten slot. -/
theorem getRemovesOrReportsEmpty : Obligations.GetRemovesOrReportsEmpty := by
  refine ⟨decodeC_encode (i := .get) rfl,
    fun s he => ⟨_, exec_get_of_empty (emptyR_eq_true_iff.2 he), List.prefix_append _ _, rfl⟩,
    fun s he hm => exec_get_of_unwritten (emptyR_eq_false_iff.2 he) hm,
    fun s b he hm => ⟨_, exec_get_of_byte (emptyR_eq_false_iff.2 he) hm, List.prefix_append _ _, ?_, fullW_removed⟩⟩
  rw [← responseWord_byte]
  rfl

/-! ## The scheduled PRODUCER and CONSUMER (R95, R96) -/

/-- A step performs the first scheduled move, that move taken (log 2). -/
theorem step_of_schedule {ms : List Move} (hf : s.fault = none) (hs : s.schedule = m :: ms) :
    step s = perform m { s with schedule := ms } := by
  simp [step, scheduledStep, nextMove, takeMove, hf, hs]

theorem canStep_produce_iff : canStep .produce s = true ↔ s.fault = none ∧ s.rxEn = true ∧ s.rxq ≠ [] := by
  simp [canStep]

theorem canStep_command_iff : canStep .command s = true ↔ s.fault = none ∧ s.cseq = .idle ∧ s.cmdq ≠ [] := by
  simp [canStep]

/-- A delivered byte is PUT (R84). -/
theorem perform_produce {b : Byte} {rest : List Byte} (hf : s.fault = none) (hen : s.rxEn = true)
    (hq : s.rxq = b :: rest) : perform .produce s = exec (.put b) (s.popRx rest) := by
  rw [perform_effect (canStep_produce_iff.2 ⟨hf, hen, by simp [hq]⟩)]
  simp [effect, producerStep, hq, producerWord, decodeP_rxWord]

/-- A command taken is the word on the consumer port. -/
theorem perform_command {w : Word} {rest : List Word} (hf : s.fault = none) (hi : s.cseq = .idle)
    (hq : s.cmdq = w :: rest) : perform .command s = consumerWord w (s.popCmd rest) := by
  rw [perform_effect (canStep_command_iff.2 ⟨hf, hi, by simp [hq]⟩)]
  simp [effect, commandStep, hq]

/-- Settles O21: the scheduled PRODUCER delivers the first byte. -/
theorem producerStepRunsPutOfTheReceivedByte : Obligations.ProducerStepRunsPutOfTheReceivedByte := by
  refine ⟨fun _ => canStep_produce_iff, fun s b rest ms hf hs hen hq => ?_⟩
  rw [step_of_schedule hf hs, perform_produce (by exact hf) (by exact hen) (by exact hq)]

/-- Settles O22: the scheduled CONSUMER takes the first word. -/
theorem commandStepRunsTheDecodedWord : Obligations.CommandStepRunsTheDecodedWord := by
  refine ⟨fun _ => canStep_command_iff, fun s w i rest ms hf hs hi hq hd => ?_, fun s w r rest ms hf hs hi hq hd => ?_⟩
  · rw [step_of_schedule hf hs, perform_command (by exact hf) (by exact hi) (by exact hq)]
    simp [consumerWord, hd]
  · rw [step_of_schedule hf hs, perform_command (by exact hf) (by exact hi) (by exact hq), consumerWord_of_illegal hd]
    exact ⟨_, rfl, List.prefix_append _ _, rfl⟩

/-! ## The synchronisers (R110, R111) -/

theorem canStep_w2r_iff {j : Nat} : canStep (.w2r j) s = true ↔ s.fault = none ∧ canW2R j s = true := by
  simp [canStep]

theorem canStep_r2w_iff {j : Nat} : canStep (.r2w j) s = true ↔ s.fault = none ∧ canR2W j s = true := by
  simp [canStep]

/-- Settles O17: the step is `syncW2R`, and its `j` stays within the distance. -/
theorem syncW2RMovesTheCopyForward : Obligations.SyncW2RMovesTheCopyForward :=
  ⟨fun s j => canStep_w2r_iff.trans (and_congr_right fun _ => canW2R_iff j s), fun _ _ h => perform_effect h,
    fun _ _ ho h => ghostHs_add_le ho (canStep_w2r_iff.1 h).2⟩

/-- Settles O18: the step is `syncR2W`, and its `j` stays within the distance. -/
theorem syncR2WMovesTheCopyForward : Obligations.SyncR2WMovesTheCopyForward :=
  ⟨fun s j => canStep_r2w_iff.trans (and_congr_right fun _ => canR2W_iff j s), fun _ _ h => perform_effect h,
    fun _ _ ho h => ghostTs_add_le ho (canStep_r2w_iff.1 h).2⟩

end Sys2Proof.Machine

/-! SUPPORT. Proofs about capacity and progress (40_ring_buffer.md R103, R128): sequences of PUTs, a full catch-up of a copy,
and weakly fair runs. -/

namespace Sys2Proof.Machine

variable {s t u : State} {m : Move}

/-! ## A full catch-up (30_encoding.md R87) -/

/-- A synchroniser that has a step may go the whole distance. -/
theorem canStep_w2rAll_iff : canStep .w2rAll s = true ↔ agentCanStep .syncW2R s := by
  refine ⟨fun h => ⟨.w2rAll, rfl, h⟩, ?_⟩
  rintro ⟨m, ha, hc⟩
  cases m with
  | w2rAll => exact hc
  | w2r j =>
    obtain ⟨hf, hj⟩ := canStep_w2r_iff.1 hc
    obtain ⟨hl, hne, h1, hle⟩ := (canW2R_iff j s).1 hj
    exact canStep_w2r_iff.2 ⟨hf, (canW2R_iff _ s).2 ⟨hl, hne, h1.trans hle, le_rfl⟩⟩
  | _ => cases ha

theorem canStep_r2wAll_iff : canStep .r2wAll s = true ↔ agentCanStep .syncR2W s := by
  refine ⟨fun h => ⟨.r2wAll, rfl, h⟩, ?_⟩
  rintro ⟨m, ha, hc⟩
  cases m with
  | r2wAll => exact hc
  | r2w j =>
    obtain ⟨hf, hj⟩ := canStep_r2w_iff.1 hc
    obtain ⟨hl, hne, h1, hle⟩ := (canR2W_iff j s).1 hj
    exact canStep_r2w_iff.2 ⟨hf, (canR2W_iff _ s).2 ⟨hl, hne, h1.trans hle, le_rfl⟩⟩
  | _ => cases ha

/-- One full catch-up of `head_sync` shows the read side every byte put, and does nothing else. -/
theorem exists_w2rAll (ho : PointerOrder s) (hf : s.fault = none) :
    ∃ u, perform .w2rAll s = .next u ∧ ghostHsView u = s.ghostH ∧ (u = s ∨ ∃ j, u = syncW2R j s) := by
  cases hc : canStep .w2rAll s with
  | false =>
    have hle : ¬ ghostHsView s < s.ghostH := by
      rw [← w2r_canStep_iff ho hf, ← canStep_w2rAll_iff, hc]
      decide
    exact ⟨s, perform_pass hc, le_antisymm ho.hsH (not_lt.1 hle), .inl rfl⟩
  | true =>
    refine ⟨_, perform_effect hc, ?_, .inr ⟨_, rfl⟩⟩
    obtain ⟨hl, -⟩ := (canW2R_iff _ s).1 (canStep_w2r_iff.1 hc).2
    obtain ⟨-, hdist, -⟩ := distancesAreExact s ho
    have hle := ho.hsH
    simp only [headView, ghostHsView, hl] at hdist hle
    simp only [ghostHsView, syncW2R_cfg, hl, syncW2R_ghostHs, w2rDist, hdist]
    omega

/-- One full catch-up of `tail_sync` shows the write side every removal, and does nothing else. -/
theorem exists_r2wAll (ho : PointerOrder s) (hf : s.fault = none) :
    ∃ u, perform .r2wAll s = .next u ∧ ghostTsView u = s.ghostT ∧ (u = s ∨ ∃ j, u = syncR2W j s) := by
  cases hc : canStep .r2wAll s with
  | false =>
    have hle : ¬ ghostTsView s < s.ghostT := by
      rw [← r2w_canStep_iff ho hf, ← canStep_r2wAll_iff, hc]
      decide
    exact ⟨s, perform_pass hc, le_antisymm ho.tsT (not_lt.1 hle), .inl rfl⟩
  | true =>
    refine ⟨_, perform_effect hc, ?_, .inr ⟨_, rfl⟩⟩
    obtain ⟨hl, -⟩ := (canR2W_iff _ s).1 (canStep_r2w_iff.1 hc).2
    obtain ⟨-, -, hdist, -⟩ := distancesAreExact s ho
    have hle := ho.tsT
    simp only [tailView, ghostTsView, hl] at hdist hle
    simp only [ghostTsView, syncR2W_cfg, hl, syncR2W_ghostTs, r2wDist, hdist]
    omega

theorem perform_pointerOrder (ho : PointerOrder s) (h : perform m s = .next t) : PointerOrder t :=
  (perform_cases h).bufferCase.pointerOrder ho

theorem perform_fifoOrder (ho : PointerOrder s) (hq : FifoOrder s) (h : perform m s = .next t) : FifoOrder t :=
  (perform_cases h).bufferCase.fifoOrder ho hq

/-! ## Sequences of PUTs (R103) -/

theorem fullW_eq_false_of_lt (ho : PointerOrder s) (h : s.ghostH + 1 < ghostTsView s + s.cfg.N) : fullW s = false := by
  rw [Bool.eq_false_iff, ne_eq, fullW_iff ho]
  omega

/-- As many PUTs as the write side sees room for succeed, and then it sees the buffer full. -/
theorem execAll_puts (bytes : List Byte) (ho : PointerOrder s)
    (hroom : s.ghostH + bytes.length = ghostTsView s + s.cfg.N - 1) :
    ∃ t, execAll (bytes.map .put) s = .next t ∧ t.ghostH = s.ghostH + bytes.length ∧ fullW t = true := by
  induction bytes generalizing s with
  | nil => exact ⟨s, rfl, rfl, (fullW_iff ho).2 hroom⟩
  | cons b rest ih =>
    rw [List.length_cons] at hroom
    have hf := fullW_eq_false_of_lt ho (by omega)
    obtain ⟨t, ht, hH, hfull⟩ := ih (ho.put hf b)
      (by show s.ghostH + 1 + rest.length = ghostTsView s + s.cfg.N - 1; omega)
    refine ⟨t, ?_, ?_, hfull⟩
    · rw [List.map_cons, execAll, exec_put_of_room hf]
      exact ht
    · rw [hH, List.length_cons]
      show s.ghostH + 1 + rest.length = s.ghostH + (rest.length + 1)
      omega

/-- Where the read side sees a byte, GET removes and answers the oldest one (R104, R124). -/
theorem exec_get_oldest (ho : PointerOrder s) (hq : FifoOrder s) (he : emptyR s = false) :
    ∃ b t, (putsSinceInit s.history)[s.ghostT]? = some b ∧ exec .get s = .next t ∧
      t.respq = s.respq ++ [b.setWidth 16] ∧ SameBuffer (record (.getOk b) s.removed) t ∧ t.fault = s.fault := by
  obtain ⟨b, hb, hm⟩ := exists_oldest ho hq he
  exact ⟨b, _, hb, exec_get_of_byte he hm, by rw [← responseWord_byte]; rfl, .respond {}, rfl⟩

theorem emptyR_eq_false_of_lt (ho : PointerOrder s) (h : s.ghostT < ghostHsView s) : emptyR s = false := by
  rw [Bool.eq_false_iff, ne_eq, emptyR_iff ho]
  exact h.ne

/-- Settles O38: the counters bound the bytes stored, and each PUT, GET and catch-up moves one of them. -/
theorem capacityIsOneLessThanN : Obligations.CapacityIsOneLessThanN := by
  refine ⟨fun s ho => ?_, fun s bytes ho hs hn => ?_, fun s b ho hq hs hf hn => ?_⟩
  · obtain ⟨hle, hlt⟩ := stored_bounds ho
    exact ⟨hle, by omega⟩
  · obtain ⟨hle, -⟩ := stored_bounds ho
    obtain ⟨-, hTs⟩ := settled_views ho hs
    have hN := two_le_N ho.cfg
    exact execAll_puts bytes ho (by omega)
  · have hN := two_le_N ho.cfg
    obtain ⟨hHs, -⟩ := settled_views ho hs
    have he := emptyR_eq_false_of_lt ho (by omega)
    obtain ⟨c, t, -, hget, -, ht, htf⟩ := exec_get_oldest ho hq he
    have hot := ht.pointerOrder (ho.removed he c)
    obtain ⟨u, hu, hTs, hut⟩ := exists_r2wAll hot (htf.trans hf)
    have hou := perform_pointerOrder hot hu
    have hcu : u.cfg = s.cfg ∧ u.ghostH = s.ghostH := by
      obtain rfl | ⟨j, rfl⟩ := hut <;> exact ⟨ht.cfg, ht.ghostH⟩
    obtain ⟨hcfg, hH⟩ := hcu
    have hT : t.ghostT = s.ghostT + 1 := ht.ghostT
    have hfull : fullW u = false := fullW_eq_false_of_lt hou (by rw [hcfg, hH, hTs, hT]; omega)
    refine ⟨t, u, _, hget, hT, hu, hfull, exec_put_of_room hfull b, by rw [← hH]; rfl, ?_⟩
    rw [fullW_iff (hou.put hfull b)]
    show u.ghostH + 1 = ghostTsView u + u.cfg.N - 1
    rw [hcfg, hH, hTs, hT]
    omega

/-! ## Runs (70_reset_and_hazards.md R236) -/

section runs

variable {ms : Nat → Move} {r : Nat → State}

/-- What a move does to the buffer does not depend on the model's schedule. -/
theorem BufferCase.of_rescheduled {l : List Move} (h : BufferCase { s with schedule := l } t) : BufferCase s t := by
  cases h with
  | kept h => exact .kept (.trans {} h)
  | put b hf h => exact .put b hf (.trans {} h)
  | removed b he hm h => exact .removed b he hm (.trans {} h)
  | w2r j hj h => exact .w2r j hj (.trans {} h)
  | r2w j hj h => exact .r2w j hj (.trans {} h)
  | init h => exact .init (.trans {} h)

theorem Run.bufferCase (h : Run ms r) (k : Nat) : BufferCase (r k) (r (k + 1)) :=
  (h.stepCase k).bufferCase.of_rescheduled

theorem Run.pointerOrder (h : Run ms r) (ho : PointerOrder (r 0)) (k : Nat) : PointerOrder (r k) := by
  induction k with
  | zero => exact ho
  | succ k ih => exact (h.bufferCase k).pointerOrder ih

theorem Run.fifoOrder (h : Run ms r) (ho : PointerOrder (r 0)) (hq : FifoOrder (r 0)) (k : Nat) : FifoOrder (r k) := by
  induction k with
  | zero => exact hq
  | succ k ih => exact (h.bufferCase k).fifoOrder (h.pointerOrder ho k) ih

/-- A step of SYNC_W2R shows the read side a byte more. -/
theorem StepCase.ghostHsView_lt (ha : agentOf m = .syncW2R) (hc : canStep m s = true) (h : StepCase s m t) :
    ghostHsView s < ghostHsView t := by
  have key : ∀ j, canW2R j s = true → ghostHsView s < ghostHsView (syncW2R j s) := fun j hj => by
    obtain ⟨hl, -, h1, -⟩ := (canW2R_iff j s).1 hj
    simp only [ghostHsView, syncW2R_cfg, hl, syncW2R_ghostHs]
    omega
  cases h with
  | pass m hp => simp [hp] at hc
  | w2r j hj => exact key j hj
  | w2rAll hj => exact key _ hj
  | _ => cases ha

/-- A step of SYNC_R2W shows the write side a removal more. -/
theorem StepCase.ghostTsView_lt (ha : agentOf m = .syncR2W) (hc : canStep m s = true) (h : StepCase s m t) :
    ghostTsView s < ghostTsView t := by
  have key : ∀ j, canR2W j s = true → ghostTsView s < ghostTsView (syncR2W j s) := fun j hj => by
    obtain ⟨hl, -, h1, -⟩ := (canR2W_iff j s).1 hj
    simp only [ghostTsView, syncR2W_cfg, hl, syncR2W_ghostTs]
    omega
  cases h with
  | pass m hp => simp [hp] at hc
  | r2w j hj => exact key j hj
  | r2wAll hj => exact key _ hj
  | _ => cases ha

theorem Run.ghostHsView_lt (h : Run ms r) {k : Nat} (ha : agentOf (ms k) = .syncW2R)
    (hc : canStep (ms k) (r k) = true) : ghostHsView (r k) < ghostHsView (r (k + 1)) :=
  StepCase.ghostHsView_lt (s := { r k with schedule := [] }) ha hc (h.stepCase k)

theorem Run.ghostTsView_lt (h : Run ms r) {k : Nat} (ha : agentOf (ms k) = .syncR2W)
    (hc : canStep (ms k) (r k) = true) : ghostTsView (r k) < ghostTsView (r (k + 1)) :=
  StepCase.ghostTsView_lt (s := { r k with schedule := [] }) ha hc (h.stepCase k)

theorem SameBuffer.ghostHsView (h : SameBuffer s t) : ghostHsView t = ghostHsView s := by
  simp only [Machine.ghostHsView, h.cfg, h.ghostHs, h.ghostH]

theorem SameBuffer.ghostTsView (h : SameBuffer s t) : ghostTsView t = ghostTsView s := by
  simp only [Machine.ghostTsView, h.cfg, h.ghostTs, h.ghostT]

/-- A move records an INIT, or forgets no PUT and hides none that the read side has seen. -/
theorem BufferCase.grows (h : BufferCase s t) :
    initCount t = initCount s + 1 ∨
      putsSinceInit s.history <+: putsSinceInit t.history ∧ ghostHsView s ≤ ghostHsView t := by
  cases h with
  | init h => exact .inl (by rw [h.inits, initCount_record]; rfl)
  | kept h => exact .inr ⟨by rw [h.puts], h.ghostHsView.ge⟩
  | put b hf h =>
    refine .inr ⟨?_, ?_⟩
    · rw [h.puts, record_history, putsSinceInit_append]
      exact List.prefix_append _ _
    · rw [h.ghostHsView]
      cases hl : s.cfg.syncModel <;> simp [ghostHsView, hl]
  | removed b he hm h => exact .inr ⟨by rw [h.puts]; simp [putsStep], h.ghostHsView.ge⟩
  | w2r j hj h =>
    refine .inr ⟨by rw [h.puts]; simp [putsStep], ?_⟩
    rw [h.ghostHsView]
    cases hl : s.cfg.syncModel <;> simp [ghostHsView, hl]
  | r2w j hj h => exact .inr ⟨by rw [h.puts]; simp [putsStep], h.ghostHsView.ge⟩

/-! ### The read side -/

section noInit

variable (h : Run ms r) (hi : ∀ k, initCount (r k) = initCount (r 0))

include h hi

theorem Run.grows (k : Nat) :
    putsSinceInit (r k).history <+: putsSinceInit (r (k + 1)).history ∧ ghostHsView (r k) ≤ ghostHsView (r (k + 1)) :=
  (h.bufferCase k).grows.resolve_left (by rw [hi (k + 1), hi k]; omega)

theorem Run.ghostHsView_mono : Monotone fun k => ghostHsView (r k) :=
  monotone_nat_of_le_succ fun k => (h.grows hi k).2

theorem Run.puts_prefix (k : Nat) : putsSinceInit (r 0).history <+: putsSinceInit (r k).history := by
  induction k with
  | zero => exact List.prefix_rfl
  | succ k ih => exact ih.trans (h.grows hi k).1

end noInit

/-- In a weakly fair run without INIT the read side comes to see every byte put at the start: while it has not,
SYNC_W2R has a step, so it takes one. -/
theorem FairRun.exists_ghostHsView_ge (h : FairRun ms r) (ho : PointerOrder (r 0)) (hq : FifoOrder (r 0))
    (hi : ∀ k, initCount (r k) = initCount (r 0)) {n : Nat} (hn : n ≤ (r 0).ghostH) : ∃ k, n ≤ ghostHsView (r k) := by
  have hmono := h.run.ghostHsView_mono hi
  induction n with
  | zero => exact ⟨0, Nat.zero_le _⟩
  | succ n ih =>
    obtain ⟨k, hk⟩ := ih (Nat.le_of_succ_le hn)
    by_contra hnone
    push Not at hnone
    have hcan : ∀ i, k ≤ i → agentCanStep .syncW2R (r i) := fun i _ => by
      have hput := (h.run.puts_prefix hi i).length_le
      rw [hq.puts, (h.run.fifoOrder ho hq i).puts] at hput
      exact (w2r_canStep_iff (h.run.pointerOrder ho i) (h.run.fault i)).2 ((hnone i).trans_le (hn.trans hput))
    obtain ⟨i, hki, ha, hc⟩ := h.w2r k hcan
    have hlt : ghostHsView (r i) < ghostHsView (r (i + 1)) := h.run.ghostHsView_lt ha hc
    have hle : ghostHsView (r k) ≤ ghostHsView (r i) := hmono hki
    have hlast := hnone (i + 1)
    omega

/-- In a weakly fair run without INIT, from some point on a GET answers the oldest byte while one of the start is
stored. -/
theorem FairRun.get_answers (h : FairRun ms r) (ho : PointerOrder (r 0)) (hq : FifoOrder (r 0))
    (hi : ∀ k, initCount (r k) = initCount (r 0)) :
    ∃ k, ∀ i, k ≤ i →
      (r 0).ghostH ≤ ghostHsView (r i) ∧
      ((r i).ghostT < (r 0).ghostH →
        ∃ b t, (putsSinceInit (r 0).history)[(r i).ghostT]? = some b ∧ exec .get (r i) = .next t ∧
          t.ghostT = (r i).ghostT + 1 ∧ t.respq = (r i).respq ++ [b.setWidth 16]) := by
  obtain ⟨k, hk⟩ := h.exists_ghostHsView_ge ho hq hi le_rfl
  refine ⟨k, fun i hki => ?_⟩
  have hseen : (r 0).ghostH ≤ ghostHsView (r i) := hk.trans (h.run.ghostHsView_mono hi hki)
  refine ⟨hseen, fun hT => ?_⟩
  have hoi := h.run.pointerOrder ho i
  obtain ⟨b, t, hb, hget, hresp, ht, -⟩ :=
    exec_get_oldest hoi (h.run.fifoOrder ho hq i) (emptyR_eq_false_of_lt hoi (hT.trans_le hseen))
  refine ⟨b, t, ?_, hget, ht.ghostT, hresp⟩
  rw [← hb]
  have hlt : (r i).ghostT < (putsSinceInit (r 0).history).length := by rwa [hq.puts]
  obtain ⟨l, hl⟩ := h.run.puts_prefix hi i
  rw [← hl, List.getElem?_append_left hlt]

/-! ### The write side -/

/-- Since `s₀` the write side has seen the buffer full, has learnt of no removal though one has happened, and no INIT has
been recorded. -/
structure StillFull (s₀ s : State) : Prop where
  full : fullW s = true
  stale : ghostTsView s = ghostTsView s₀
  freed : ghostTsView s < s.ghostT
  inits : initCount s = initCount s₀

/-- The write side has learnt of a removal since `s₀`, or an INIT has been recorded, and it sees room. -/
structure RoomSeen (s₀ s : State) : Prop where
  moved : ghostTsView s₀ < ghostTsView s ∨ initCount s₀ < initCount s
  room : fullW s = false

theorem StillFull.of_counters {s₀ : State} (hs : StillFull s₀ s) (ho : PointerOrder s) (hot : PointerOrder t)
    (hc : t.cfg = s.cfg) (hH : t.ghostH = s.ghostH) (hTs : ghostTsView t = ghostTsView s) (hT : s.ghostT ≤ t.ghostT)
    (hi : initCount t = initCount s) : StillFull s₀ t where
  full := (fullW_iff hot).2 (by rw [hH, hTs, hc]; exact (fullW_iff ho).1 hs.full)
  stale := hTs.trans hs.stale
  freed := hTs ▸ hs.freed.trans_le hT
  inits := hi.trans hs.inits

/-- A full buffer takes no PUT, so it stays full until `tail_sync` advances or an INIT comes, and either makes room. -/
theorem BufferCase.stillFull {s₀ : State} (ho : PointerOrder s) (hs : StillFull s₀ s) (h : BufferCase s t) :
    StillFull s₀ t ∨ RoomSeen s₀ t := by
  have hot := h.pointerOrder ho
  have hl : s.cfg.syncModel = .lagged := by
    have hfreed := hs.freed
    cases hl : s.cfg.syncModel with
    | lagged => rfl
    | immediate => simp [ghostTsView, hl] at hfreed
  have hN := two_le_N ho.cfg
  cases h with
  | kept h => exact .inl (hs.of_counters ho hot h.cfg h.ghostH h.ghostTsView h.ghostT.ge h.inits)
  | put b hf h => simp [hs.full] at hf
  | removed b he hm h =>
    have hTs : ghostTsView t = ghostTsView s := by rw [h.ghostTsView]; simp [ghostTsView, hl]
    have hT : t.ghostT = s.ghostT + 1 := h.ghostT
    exact .inl (hs.of_counters ho hot h.cfg h.ghostH hTs (by omega) (h.inits.trans (by simp [initCount])))
  | w2r j hj h =>
    exact .inl (hs.of_counters ho hot h.cfg h.ghostH h.ghostTsView h.ghostT.ge (h.inits.trans (by simp [initCount])))
  | r2w j hj h =>
    obtain ⟨-, -, h1, -⟩ := (canR2W_iff j s).1 hj
    have hTs : ghostTsView t = ghostTsView s + j := by rw [h.ghostTsView]; simp [ghostTsView, hl]
    have hH : t.ghostH = s.ghostH := h.ghostH
    have hc : t.cfg = s.cfg := h.cfg
    have hfull := (fullW_iff ho).1 hs.full
    exact .inr ⟨.inl (by rw [← hs.stale]; omega), fullW_eq_false_of_lt hot (by rw [hc]; omega)⟩
  | init h =>
    have hH : t.ghostH = 0 := h.ghostH
    have hc : t.cfg = s.cfg := h.cfg
    have hi : initCount t = initCount s + 1 := by rw [h.inits, initCount_record]; rfl
    exact .inr ⟨.inr (by rw [hi, hs.inits]; exact Nat.lt_succ_self _), fullW_eq_false_of_lt hot (by rw [hc]; omega)⟩

/-- In a weakly fair run from a buffer that is seen full though a byte has been removed, the write side comes to see room:
while it does not, SYNC_R2W has a step, so it takes one. -/
theorem FairRun.exists_roomSeen (h : FairRun ms r) (ho : PointerOrder (r 0)) (hf : fullW (r 0) = true)
    (hlt : ghostTsView (r 0) < (r 0).ghostT) : ∃ k, RoomSeen (r 0) (r k) := by
  by_contra hnone
  push Not at hnone
  have hstill : ∀ k, StillFull (r 0) (r k) := fun k => by
    induction k with
    | zero => exact ⟨hf, rfl, hlt, rfl⟩
    | succ k ih => exact ((h.run.bufferCase k).stillFull (h.run.pointerOrder ho k) ih).resolve_right (hnone _)
  obtain ⟨i, -, ha, hc⟩ := h.r2w 0 fun i _ =>
    (r2w_canStep_iff (h.run.pointerOrder ho i) (h.run.fault i)).2 (hstill i).freed
  have hadv : ghostTsView (r i) < ghostTsView (r (i + 1)) := h.run.ghostTsView_lt ha hc
  rw [(hstill i).stale, (hstill (i + 1)).stale] at hadv
  exact absurd hadv (lt_irrefl _)

end runs

/-- After one full catch-up of `head_sync` a GET answers the oldest stored byte. -/
theorem get_after_w2rAll (ho : PointerOrder s) (hq : FifoOrder s) (hf : s.fault = none) (hlt : s.ghostT < s.ghostH) :
    ∃ u t b, perform .w2rAll s = .next u ∧ exec .get u = .next t ∧
      (putsSinceInit s.history)[s.ghostT]? = some b ∧ t.respq = s.respq ++ [b.setWidth 16] := by
  obtain ⟨u, hu, hHs, hus⟩ := exists_w2rAll ho hf
  have hsame : u.ghostT = s.ghostT ∧ u.respq = s.respq ∧ putsSinceInit u.history = putsSinceInit s.history := by
    obtain rfl | ⟨j, rfl⟩ := hus
    · exact ⟨rfl, rfl, rfl⟩
    · exact ⟨rfl, rfl, by simp [putsStep]⟩
  obtain ⟨hT, hr, hp⟩ := hsame
  have hou := perform_pointerOrder ho hu
  obtain ⟨b, t, hb, hget, hresp, -⟩ :=
    exec_get_oldest hou (perform_fifoOrder ho hq hu) (emptyR_eq_false_of_lt hou (by omega))
  exact ⟨u, t, b, hu, hget, by rw [← hb, hT, hp], by rw [hresp, hr]⟩

/-- After one full catch-up of `tail_sync` a PUT of a buffer that was seen full succeeds, where a byte had been removed. -/
theorem put_after_r2wAll (b : Byte) (ho : PointerOrder s) (hf : s.fault = none) (hfull : fullW s = true)
    (hlt : ghostTsView s < s.ghostT) :
    ∃ u t, perform .r2wAll s = .next u ∧ exec (.put b) u = .next t ∧ t.ghostH = s.ghostH + 1 := by
  obtain ⟨u, hu, hTs, hus⟩ := exists_r2wAll ho hf
  have hsame : u.cfg = s.cfg ∧ u.ghostH = s.ghostH := by
    obtain rfl | ⟨j, rfl⟩ := hus <;> exact ⟨rfl, rfl⟩
  obtain ⟨hcfg, hH⟩ := hsame
  have hN := two_le_N ho.cfg
  have hHs := (fullW_iff ho).1 hfull
  have hroom : fullW u = false :=
    fullW_eq_false_of_lt (perform_pointerOrder ho hu) (by rw [hcfg, hH, hTs]; omega)
  exact ⟨u, _, hu, exec_put_of_room hroom b, by rw [← hH]; rfl⟩

/-- Settles O52: fairness brings the catch-up that GET or PUT needs, and one full catch-up is enough. -/
theorem caughtUpSidesMakeProgress : Obligations.CaughtUpSidesMakeProgress := by
  refine ⟨fun ms r h ho hq hi _ => h.get_answers ho hq hi, fun ms r h ho hf hlt => ?_,
    fun s => get_after_w2rAll, fun s b => put_after_r2wAll b⟩
  obtain ⟨k, hmoved, hroom⟩ := h.exists_roomSeen ho hf hlt
  exact ⟨k, hmoved, fun b => ⟨_, exec_put_of_room hroom b, rfl⟩⟩

end Sys2Proof.Machine

/-! SUPPORT. IMMEDIATE as a restriction of LAGGED (40_ring_buffer.md R113): in a settled state a move and the passage to the
IMMEDIATE implementation commute, and a full catch-up of both copies settles the state again. -/

namespace Sys2Proof.Machine

variable {s t u : State} {m : Move}

/-! ## The IMMEDIATE state of an updated state -/

section asImmediate

variable (s)

theorem asImmediate_record {e : Event} (h : notSyncEvent e = true) :
    asImmediate (record e s) = record e (asImmediate s) := by
  simp [asImmediate, record, h]

theorem asImmediate_respond (st : Status) (v : Cnt) : asImmediate (respond st v s) = respond st v (asImmediate s) := by
  simp [asImmediate, respond, notSyncEvent]

theorem asImmediate_raiseFault (f : Fault) : asImmediate (raiseFault f s) = raiseFault f (asImmediate s) := by
  simp [asImmediate, raiseFault, notSyncEvent]

theorem asImmediate_illegalC (w : Word) : asImmediate (illegalC w s) = illegalC w (asImmediate s) := by
  rw [illegalC, asImmediate_respond, asImmediate_record _ rfl]
  rfl

theorem asImmediate_finishRead (r : StopReason) : asImmediate (finishRead r s) = finishRead r (asImmediate s) := by
  simp [asImmediate, finishRead, respond, record, notSyncEvent]

theorem asImmediate_finishWrite : asImmediate (finishWrite s) = finishWrite (asImmediate s) := by
  simp [asImmediate, finishWrite, respond, record, notSyncEvent]

theorem asImmediate_txAccept : asImmediate (txAccept s) = txAccept (asImmediate s) := asImmediate_record _ rfl

theorem asImmediate_initBuffer : asImmediate (initBuffer s) = initBuffer (asImmediate s) := rfl

theorem asImmediate_afterByte (b : Byte) : asImmediate (afterByte b s) = afterByte b (asImmediate s) := by
  unfold afterByte
  split
  · exact asImmediate_finishRead s .cr
  · exact (apply_ite asImmediate _ _ _).trans (by rw [asImmediate_finishRead]; rfl)

/-- A synchroniser step is no step of the IMMEDIATE implementation. -/
theorem asImmediate_syncW2R (j : Nat) : asImmediate (syncW2R j s) = asImmediate s := by
  simp [asImmediate, syncW2R, record, notSyncEvent]

theorem asImmediate_syncR2W (j : Nat) : asImmediate (syncR2W j s) = asImmediate s := by
  simp [asImmediate, syncR2W, record, notSyncEvent]

end asImmediate

/-! ## Every operation and every move answers a next state -/

theorem exists_exec (i : Instr) (s : State) : ∃ t, exec i s = .next t := by
  cases i with
  | nop => exact ⟨_, rfl⟩
  | init => cases h : s.rxEn with
    | true => exact ⟨_, exec_init_of_enabled h⟩
    | false => exact ⟨_, exec_init_of_disabled h⟩
  | put b => cases h : fullW s with
    | true => exact ⟨_, exec_put_of_full h b⟩
    | false => exact ⟨_, exec_put_of_room h b⟩
  | get =>
    rw [exec, execGet]
    split <;> exact ⟨_, rfl⟩
  | read m =>
    rw [exec, execRead]
    split_ifs <;> exact ⟨_, rfl⟩
  | write c =>
    rw [exec, execWrite]
    split_ifs <;> exact ⟨_, rfl⟩

theorem exists_consumerWord (w : Word) (s : State) : ∃ t, consumerWord w s = .next t := by
  unfold consumerWord
  split
  · exact exists_exec _ s
  · exact ⟨_, rfl⟩

theorem exists_perform (m : Move) (s : State) : ∃ t, perform m s = .next t := by
  cases hc : canStep m s with
  | false => exact ⟨s, perform_pass hc⟩
  | true =>
    cases m with
    | produce =>
      obtain ⟨hf, hen, hq⟩ := canStep_produce_iff.1 hc
      obtain ⟨b, rest, hq⟩ := List.exists_cons_of_ne_nil hq
      rw [perform_produce hf hen hq]
      exact exists_exec _ _
    | command =>
      obtain ⟨hf, hi, hq⟩ := canStep_command_iff.1 hc
      obtain ⟨w, rest, hq⟩ := List.exists_cons_of_ne_nil hq
      rw [perform_command hf hi hq]
      exact exists_consumerWord _ _
    | _ => exact ⟨_, perform_effect hc⟩

/-! ## Moves of a settled state -/

theorem views_of_settled (h : settled s = true) : headView s = s.head ∧ tailView s = s.tail := by
  simpa [settled] using h

theorem emptyR_asImmediate (h : settled s = true) : emptyR (asImmediate s) = emptyR s := by
  obtain ⟨hh, -⟩ := views_of_settled h
  rw [emptyR, emptyR, hh]
  rfl

theorem fullW_asImmediate (h : settled s = true) : fullW (asImmediate s) = fullW s := by
  obtain ⟨-, ht⟩ := views_of_settled h
  rw [fullW, fullW, ht]
  rfl

theorem canW2R_asImmediate (j : Nat) (s : State) : canW2R j (asImmediate s) = false := rfl

theorem canR2W_asImmediate (j : Nat) (s : State) : canR2W j (asImmediate s) = false := rfl

/-- In a settled state no copy lags, and under IMMEDIATE there is none: the synchronisers have no step in either. -/
theorem canStep_asImmediate (h : settled s = true) (m : Move) : canStep m (asImmediate s) = canStep m s := by
  have hw : ∀ j, canW2R j s = false := fun j => by
    rw [Bool.eq_false_iff, ne_eq, canW2R_iff]
    rintro ⟨hl, hne, -⟩
    simp [settled, headView, hl, hne] at h
  have hr : ∀ j, canR2W j s = false := fun j => by
    rw [Bool.eq_false_iff, ne_eq, canR2W_iff]
    rintro ⟨hl, hne, -⟩
    simp [settled, tailView, hl, hne] at h
  cases m with
  | w2r | w2rAll => simp [canStep, hw, canW2R_asImmediate]
  | r2w | r2wAll => simp [canStep, hr, canR2W_asImmediate]
  | _ => rfl

theorem exec_asImmediate (hs : settled s = true) (i : Instr) (h : exec i s = .next t) :
    exec i (asImmediate s) = .next (asImmediate t) := by
  have he := emptyR_asImmediate hs
  have hf := fullW_asImmediate hs
  cases i with
  | nop =>
    cases h
    rw [asImmediate_respond]
    rfl
  | init =>
    cases hen : s.rxEn with
    | true =>
      cases (exec_init_of_enabled hen).symm.trans h
      rw [asImmediate_raiseFault, exec_init_of_enabled (by exact hen)]
    | false =>
      cases (exec_init_of_disabled hen).symm.trans h
      rw [asImmediate_respond, asImmediate_record _ rfl, asImmediate_initBuffer, exec_init_of_disabled (by exact hen)]
  | put b =>
    cases hfull : fullW s with
    | true =>
      cases (exec_put_of_full hfull b).symm.trans h
      rw [asImmediate_record _ rfl, exec_put_of_full (hf.trans hfull)]
      rfl
    | false =>
      cases (exec_put_of_room hfull b).symm.trans h
      rw [asImmediate_record _ rfl, exec_put_of_room (hf.trans hfull)]
      rfl
  | get =>
    cases hempty : emptyR s with
    | true =>
      cases (exec_get_of_empty hempty).symm.trans h
      rw [asImmediate_respond, asImmediate_record _ rfl, exec_get_of_empty (he.trans hempty)]
    | false =>
      cases hm : Memory.read s.mem s.tail with
      | none =>
        cases (exec_get_of_unwritten hempty hm).symm.trans h
        rw [asImmediate_raiseFault, exec_get_of_unwritten (he.trans hempty) (by exact hm)]
      | some b =>
        cases (exec_get_of_byte hempty hm).symm.trans h
        rw [asImmediate_respond, asImmediate_record _ rfl, exec_get_of_byte (he.trans hempty) (by exact hm)]
        rfl
  | read m =>
    obtain hm | hm := Nat.lt_or_ge s.hostOut.length m.toNat
    · cases (exec_read_of_short hm).symm.trans h
      rw [asImmediate_raiseFault, exec_read_of_short (by exact hm)]
    · by_cases h0 : m = 0
      · subst h0
        cases (exec_read_zero s).symm.trans h
        rw [asImmediate_respond, asImmediate_record _ rfl, asImmediate_record _ rfl, exec_read_zero]
      · cases (exec_read_of_room hm h0).symm.trans h
        rw [asImmediate_record _ rfl, exec_read_of_room (by exact hm) h0]
        rfl
  | write c =>
    obtain hc | hc := Nat.lt_or_ge s.hostSrc.length c.toNat
    · cases (exec_write_of_short hc).symm.trans h
      rw [asImmediate_raiseFault, exec_write_of_short (by exact hc)]
    · by_cases h0 : c = 0
      · subst h0
        cases (exec_write_zero s).symm.trans h
        rw [asImmediate_respond, asImmediate_record _ rfl, asImmediate_record _ rfl, exec_write_zero]
      · cases (exec_write_of_room hc h0).symm.trans h
        rw [asImmediate_record _ rfl, exec_write_of_room (by exact hc) h0]
        rfl

theorem consumerWord_asImmediate (hs : settled s = true) (w : Word) (h : consumerWord w s = .next t) :
    consumerWord w (asImmediate s) = .next (asImmediate t) := by
  unfold consumerWord at h ⊢
  split at h
  · exact exec_asImmediate hs _ h
  · cases h
    rw [asImmediate_illegalC]

theorem readStep_asImmediate (hs : settled s = true) : readStep (asImmediate s) = asImmediate (readStep s) := by
  have he := emptyR_asImmediate hs
  cases hempty : emptyR s with
  | true => rw [readStep_of_empty hempty, readStep_of_empty (he.trans hempty), asImmediate_finishRead]
  | false =>
    cases hm : Memory.read s.mem s.tail with
    | none =>
      rw [readStep_of_unwritten hempty hm, readStep_of_unwritten (he.trans hempty) (by exact hm), asImmediate_raiseFault]
    | some b =>
      obtain hl | hl := Nat.lt_or_ge s.rdCnt.toNat s.hostOut.length
      · rw [readStep_of_byte hempty hm hl, readStep_of_byte (he.trans hempty) (by exact hm) (by exact hl),
          asImmediate_afterByte, asImmediate_record _ rfl]
        rfl
      · rw [readStep_of_noRoom hempty hm hl, readStep_of_noRoom (he.trans hempty) (by exact hm) (by exact hl),
          asImmediate_raiseFault]

theorem writeStep_asImmediate (s : State) : writeStep (asImmediate s) = asImmediate (writeStep s) := by
  by_cases hi : s.wrIdx < s.wrTotal
  · cases hb : s.hostSrc[s.wrIdx.toNat]? with
    | none => rw [writeStep_of_noByte hi hb, writeStep_of_noByte (by exact hi) (by exact hb), asImmediate_raiseFault]
    | some b =>
      rw [writeStep_of_byte hi hb, writeStep_of_byte (by exact hi) (by exact hb)]
      rfl
  · rw [writeStep_of_end hi, writeStep_of_end (by exact hi), asImmediate_finishWrite]

theorem sequencerStep_asImmediate (hs : settled s = true) :
    sequencerStep (asImmediate s) = asImmediate (sequencerStep s) := by
  have hq : (asImmediate s).cseq = s.cseq := rfl
  unfold sequencerStep
  rw [hq]
  cases s.cseq with
  | idle => rfl
  | read => exact readStep_asImmediate hs
  | write => exact writeStep_asImmediate s

/-- The commuting square: a move of a settled state is the same move of the IMMEDIATE implementation. -/
theorem perform_asImmediate (hs : settled s = true) (h : perform m s = .next t) :
    perform m (asImmediate s) = .next (asImmediate t) := by
  have hcan := canStep_asImmediate hs m
  cases hc : canStep m s with
  | false =>
    rw [perform_pass hc] at h
    cases h
    exact perform_pass (hcan.trans hc)
  | true =>
    have heff := perform_effect (hcan.trans hc)
    cases m with
    | produce =>
      obtain ⟨hf, hen, hq⟩ := canStep_produce_iff.1 hc
      obtain ⟨b, rest, hq⟩ := List.exists_cons_of_ne_nil hq
      rw [perform_produce hf hen hq] at h
      rw [perform_produce (by exact hf) (by exact hen) (by exact hq)]
      exact exec_asImmediate (s := s.popRx rest) hs _ h
    | command =>
      obtain ⟨hf, hi, hq⟩ := canStep_command_iff.1 hc
      obtain ⟨w, rest, hq⟩ := List.exists_cons_of_ne_nil hq
      rw [perform_command hf hi hq] at h
      rw [perform_command (by exact hf) (by exact hi) (by exact hq)]
      exact consumerWord_asImmediate (s := s.popCmd rest) hs _ h
    | seqStep =>
      cases (perform_effect hc).symm.trans h
      rw [← sequencerStep_asImmediate hs]
      exact heff
    | accept =>
      cases (perform_effect hc).symm.trans h
      rw [asImmediate_txAccept]
      exact heff
    | w2r | w2rAll | r2w | r2wAll =>
      rw [hc] at hcan
      simp [canStep, canW2R_asImmediate, canR2W_asImmediate] at hcan
    | _ =>
      cases (perform_effect hc).symm.trans h
      exact heff

/-! ## A full catch-up of both copies -/

/-- Where the copies' counts are the live ones, so are the copies (00_scope.md R19). -/
theorem settled_of_views (ho : PointerOrder s) (hHs : ghostHsView s = s.ghostH) (hTs : ghostTsView s = s.ghostT) :
    settled s = true := by
  simp [settled, ho.headView, ho.tailView, ho.head, ho.tail, hHs, hTs]

/-- A full catch-up of both copies settles the state, and the IMMEDIATE implementation sees nothing of it. -/
theorem exists_catchUp (ho : PointerOrder s) (hf : s.fault = none ∨ settled s = true) :
    ∃ t, performAll [.w2rAll, .r2wAll] s = .next t ∧ asImmediate t = asImmediate s ∧ settled t = true := by
  cases hfault : s.fault with
  | some f =>
    refine ⟨s, ?_, rfl, hf.resolve_left (by simp [hfault])⟩
    simp [performAll, perform_pass (canStep_of_fault hfault _)]
  | none =>
    obtain ⟨u, hu, hHs, hus⟩ := exists_w2rAll ho hfault
    have hou := perform_pointerOrder ho hu
    have hsame : u.fault = none ∧ u.ghostH = s.ghostH ∧ asImmediate u = asImmediate s := by
      obtain rfl | ⟨j, rfl⟩ := hus
      · exact ⟨hfault, rfl, rfl⟩
      · exact ⟨hfault, rfl, asImmediate_syncW2R s j⟩
    obtain ⟨huf, hH, hui⟩ := hsame
    obtain ⟨t, ht, hTs, htu⟩ := exists_r2wAll hou huf
    have hsame : t.ghostT = u.ghostT ∧ t.ghostH = u.ghostH ∧ ghostHsView t = ghostHsView u ∧
        asImmediate t = asImmediate u := by
      obtain rfl | ⟨j, rfl⟩ := htu
      · exact ⟨rfl, rfl, rfl, rfl⟩
      · exact ⟨rfl, rfl, rfl, asImmediate_syncR2W u j⟩
    obtain ⟨hT, htH, hview, hti⟩ := hsame
    refine ⟨t, by simp [performAll, hu, ht], hti.trans hui, ?_⟩
    exact settled_of_views (perform_pointerOrder hou ht) (by rw [hview, hHs, htH, hH]) (by rw [hTs, hT])

/-- A move that marks a fault leaves the pointers and the copies alone. -/
theorem StepCase.fault_or_settled (h : StepCase s m t) : t.fault = s.fault ∨ settled t = settled s := by
  cases h with
  | initRace | getUnwritten | readBounds | writeBounds | readUnwritten | readNoRoom | writeNoByte => exact .inr rfl
  | readByte => exact .inl (afterByte_fault _ _)
  | _ => exact .inl rfl

/-- Settles O53: the move of the settled LAGGED state, then the catch-up. -/
theorem immediateIsARestrictionOfLagged : Obligations.ImmediateIsARestrictionOfLagged := by
  intro m s t' ho _ hs ht'
  obtain ⟨u, hu⟩ := exists_perform m s
  have hfault : u.fault = none ∨ settled u = true := by
    cases hf : s.fault with
    | some f =>
      cases (perform_pass (canStep_of_fault hf m)).symm.trans hu
      exact .inr hs
    | none => exact (perform_cases hu).fault_or_settled.imp (·.trans hf) (·.trans hs)
  obtain ⟨t, ht, hti, hts⟩ := exists_catchUp (perform_pointerOrder ho hu) hfault
  have hut : asImmediate u = t' := Host.Outcome.next.inj ((perform_asImmediate hs hu).symm.trans ht')
  refine ⟨t, ?_, hti.trans hut, hts⟩
  rw [performAll, hu]
  exact ht

end Sys2Proof.Machine

/-! SUPPORT. Proofs about the Gray-code crossing (40_ring_buffer.md R112; 93_implementation_defined.md G1, G2). -/

namespace Sys2Proof.Machine

variable {w : Nat}

/-! ## Gray code bit by bit -/

/-- Bit `i` of a Gray code is bit `i` of the pointer xor the bit above it. -/
theorem getLsbD_gray (p : BitVec w) (i : Nat) : (gray p).getLsbD i = (p.getLsbD i ^^ p.getLsbD (i + 1)) := by
  simp [gray, Nat.add_comm 1 i]

theorem getLsbD_bin (g : BitVec w) {i : Nat} (h : i < w) : (bin g).getLsbD i = binBit g (w - i) i := by
  simp [bin, h]

/-- The xors of neighbouring bits telescope. -/
theorem binBit_gray (p : BitVec w) (k i : Nat) : binBit (gray p) k i = (p.getLsbD i ^^ p.getLsbD (i + k)) := by
  induction k generalizing i with
  | zero => simp [binBit]
  | succ k ih =>
    rw [binBit, ih, getLsbD_gray, show i + 1 + k = i + (k + 1) by omega]
    cases p.getLsbD i <;> cases p.getLsbD (i + 1) <;> simp

theorem bin_gray (p : BitVec w) : bin (gray p) = p := by
  apply BitVec.eq_of_getLsbD_eq
  intro i hi
  rw [getLsbD_bin _ hi, binBit_gray, Nat.add_sub_cancel' hi.le, BitVec.getLsbD_of_ge p w le_rfl, Bool.xor_false]

/-- Also above the top bit, where both sides are 0. -/
theorem getLsbD_bin_of_le (g : BitVec w) {i : Nat} (h : i ≤ w) : (bin g).getLsbD i = binBit g (w - i) i := by
  obtain h | rfl := Nat.lt_or_eq_of_le h
  · exact getLsbD_bin g h
  · simp [binBit]

theorem gray_bin (g : BitVec w) : gray (bin g) = g := by
  apply BitVec.eq_of_getLsbD_eq
  intro i hi
  rw [getLsbD_gray, getLsbD_bin_of_le g hi.le, getLsbD_bin_of_le g hi, show w - i = w - (i + 1) + 1 by omega, binBit]
  cases binBit g (w - (i + 1)) (i + 1) <;> simp

/-- Settles O58: bit by bit, the xors cancel. -/
theorem grayCodeRoundTrips : Obligations.GrayCodeRoundTrips :=
  ⟨fun _ => bin_gray, fun _ => gray_bin, by decide, by decide, by decide, by decide⟩

/-! ## The successor of a pointer -/

/-- Adding one flips a bit exactly where every bit below it is set. -/
theorem getLsbD_add_one_ne_iff (p : BitVec w) {k : Nat} (hk : k < w) :
    p.getLsbD k ≠ (p + 1).getLsbD k ↔ ∀ l < k, p.getLsbD l = true := by
  have hneg : p + 1 = -~~~p := by rw [BitVec.neg_eq_not_add, BitVec.not_not]; rfl
  have hbit : decide (∃ j < k, (~~~p).getLsbD j = true) = !decide (∀ l < k, p.getLsbD l = true) := by
    rw [← decide_not, decide_eq_decide]
    push Not
    refine exists_congr fun j => and_congr_right fun hj => ?_
    rw [BitVec.getLsbD_not, decide_eq_true (hj.trans hk), Bool.true_and, Bool.not_eq_true', ne_eq, Bool.not_eq_true]
  rw [hneg, BitVec.getLsbD_neg, BitVec.getLsbD_not, hbit, decide_eq_true hk]
  refine Iff.trans ?_ (decide_eq_true_iff (p := ∀ l < k, p.getLsbD l = true))
  generalize p.getLsbD k = a, decide (∀ l < k, p.getLsbD l = true) = below
  revert a below
  decide

/-- A pointer and its successor, the wrap included, differ in the bits up to some bit `i` and in no other: `i` is the
lowest bit that is not set, or the top one. -/
theorem exists_top_flipped_bit (p : BitVec w) (hw : 1 ≤ w) :
    ∃ i < w, ∀ k, p.getLsbD k ≠ (p + 1).getLsbD k ↔ k ≤ i := by
  have hex : ∃ i, p.getLsbD i = false ∨ i + 1 = w := ⟨w - 1, .inr (by omega)⟩
  obtain ⟨i, hi, hmin⟩ : ∃ i, (p.getLsbD i = false ∨ i + 1 = w) ∧ ∀ l < i, ¬ (p.getLsbD l = false ∨ l + 1 = w) :=
    ⟨Nat.find hex, Nat.find_spec hex, fun _ => Nat.find_min hex⟩
  have hset : ∀ l < i, p.getLsbD l = true := fun l hl => by simpa using (not_or.1 (hmin l hl)).1
  have hiw : i < w := by
    by_contra hge
    exact hmin (w - 1) (by omega) (.inr (by omega))
  refine ⟨i, hiw, fun k => ?_⟩
  obtain hk | hk := lt_or_ge k w
  · rw [getLsbD_add_one_ne_iff p hk]
    refine ⟨fun h => ?_, fun hki l hl => hset l (hl.trans_le hki)⟩
    by_contra hlt
    obtain hi | hi := hi
    · simp [h i (by omega)] at hi
    · omega
  · simp only [BitVec.getLsbD_of_ge _ k hk, ne_eq, not_true_eq_false, false_iff]
    omega

/-- Settles O59: of the bits that flip, only the top one differs from the bit above it in whether it flips. -/
theorem grayStepsDifferInOneBit : Obligations.GrayStepsDifferInOneBit := by
  intro w p hw
  obtain ⟨i, hi, hflip⟩ := exists_top_flipped_bit p hw
  refine ⟨i, hi, fun k _ => ?_⟩
  have hk := hflip k
  have hk1 := hflip (k + 1)
  have hxor : (gray p).getLsbD k ≠ (gray (p + 1)).getLsbD k ↔
      ¬ (p.getLsbD k ≠ (p + 1).getLsbD k ↔ p.getLsbD (k + 1) ≠ (p + 1).getLsbD (k + 1)) := by
    rw [getLsbD_gray, getLsbD_gray]
    generalize p.getLsbD k = a, (p + 1).getLsbD k = b, p.getLsbD (k + 1) = c, (p + 1).getLsbD (k + 1) = d
    revert a b c d
    decide
  rw [hxor, hk, hk1]
  omega

/-- Settles O60: only one bit of the sample is on the move, so the sample is one of the two codes. -/
theorem graySampleIsOldOrNew : Obligations.GraySampleIsOldOrNew := by
  intro w p x hx
  suffices h : x = gray p ∨ x = gray (p + 1) from
    h.imp (fun e => by rw [e, bin_gray]) fun e => by rw [e, bin_gray]
  obtain rfl | hw := Nat.eq_zero_or_pos w
  · exact .inl (BitVec.eq_of_getLsbD_eq fun _ hk => absurd hk (Nat.not_lt_zero _))
  obtain ⟨i, hi, hdiff⟩ := grayStepsDifferInOneBit w p hw
  have hother : ∀ k < w, k ≠ i → (gray p).getLsbD k = (gray (p + 1)).getLsbD k := fun k hk hki => by
    by_contra hne
    exact hki ((hdiff k hk).1 hne)
  refine (hx i hi).imp (fun hold => ?_) fun hnew => ?_ <;> refine BitVec.eq_of_getLsbD_eq fun k hk => ?_ <;>
    obtain rfl | hki := eq_or_ne k i
  · exact hold
  · exact (hx k hk).elim id fun h => h.trans (hother k hk hki).symm
  · exact hnew
  · exact (hx k hk).elim (fun h => h.trans (hother k hk hki)) id

end Sys2Proof.Machine

/-! SUPPORT. Proofs about the line reader (41_line_reader.md): the translation law, the steps of a READ, its end under any
schedule, and the READ that nothing interrupts. -/

namespace Sys2Proof.Machine

variable {s t u : State} {m : Move}

/-! ## The byte a READ step takes (41_line_reader.md R142) -/

/-- The state in which a READ step has removed `b` and appended its translation, before it decides whether to stop. -/
abbrev State.taken (s : State) (b : Byte) : State :=
  record (.readByte b (crToLf b)) (s.removed.appended (crToLf b))

/-- A count below another does not wrap. -/
theorem toNat_add_one_of_lt {a b : Cnt} (h : a < b) : (a + 1).toNat = a.toNat + 1 := by bv_omega

/-- An entry written at position `k` is the last of the first `k + 1`, behind the entries that were before it. -/
theorem take_set_succ {α : Type} {l : List α} {k : Nat} (h : k < l.length) (v : α) :
    (l.set k v).take (k + 1) = l.take k ++ [v] := by
  rw [List.take_add_one, List.take_set_of_le le_rfl, List.getElem?_set_self h, Option.toList_some]

/-! ## The translation law (R145) -/

/-- The translation law reads only the log of the last READ and, during a READ, its count and HOSTOUT. -/
theorem readLogOk_congr (h : ReadLogOk s) (hl : lastReadLog t.history = lastReadLog s.history)
    (hr : t.cseq = .read → s.cseq = .read ∧ t.rdCnt = s.rdCnt ∧ t.hostOut = s.hostOut) : ReadLogOk t := by
  obtain ⟨htr, hno, hin⟩ := h
  refine ⟨hl ▸ htr, hl ▸ hno, fun ht => ?_⟩
  obtain ⟨hs, hc, ho⟩ := hr ht
  rw [hl, hc, ho]
  exact hin hs

/-- A READ that has taken nothing. -/
theorem readLogOk_of_nil (hl : lastReadLog t.history = []) (hr : t.cseq = .read → t.rdCnt = 0) : ReadLogOk t := by
  refine ⟨by simp [hl], by simp [hl], fun ht => ?_⟩
  simp [hl, hr ht]

/-- The byte taken joins the log with its translation; it ends the READ where it is a CR, so that no CR stands before it. -/
theorem afterByte_taken_readLogOk (hs : ReadLogOk s) (hr : s.cseq = .read) (hlt : s.rdCnt < s.rdMax)
    (hroom : s.rdCnt.toNat < s.hostOut.length) (b : Byte) : ReadLogOk (afterByte b (s.taken b)) := by
  obtain ⟨hlen, hno, hout⟩ := hs.inProgress hr
  have hlog : lastReadLog (s.taken b).history = lastReadLog s.history ++ [(b, crToLf b)] := by simp [readLogStep]
  have htr : ∀ p ∈ lastReadLog (s.taken b).history, p.2 = crToLf p.1 := by
    rw [hlog, List.forall_mem_append]
    exact ⟨hs.translated, by simp⟩
  have hbefore : ∀ p ∈ (lastReadLog (s.taken b).history).dropLast, p.1 ≠ CR := by
    rw [hlog, List.dropLast_concat]
    exact hno
  have hdone (r : StopReason) : ReadLogOk (finishRead r (s.taken b)) := by
    have hsame : lastReadLog (finishRead r (s.taken b)).history = lastReadLog (s.taken b).history := by
      simp [readLogStep]
    exact ⟨hsame ▸ htr, hsame ▸ hbefore, nofun⟩
  rcases afterByte_cases b (s.taken b) with ⟨-, e⟩ | ⟨-, -, e⟩ | ⟨hb, -, e⟩ <;> rw [e]
  · exact hdone .cr
  · exact hdone .max
  · refine ⟨htr, hbefore, fun _ => ?_⟩
    have hcnt : (s.taken b).rdCnt.toNat = s.rdCnt.toNat + 1 := toNat_add_one_of_lt hlt
    rw [hlog, hcnt]
    refine ⟨by simp [hlen], ?_, ?_⟩
    · rw [List.forall_mem_append]
      exact ⟨hno, by simpa using hb⟩
    · show (s.hostOut.set s.rdCnt.toNat (crToLf b)).take (s.rdCnt.toNat + 1) = _
      rw [take_set_succ hroom, hout]
      simp

theorem StepCase.readLogOk (hq : SequencerOk s) (hs : ReadLogOk s) (h : StepCase s m t) : ReadLogOk t := by
  cases h with
  | readStart => exact readLogOk_of_nil (by simp [readLogStep]) fun _ => rfl
  | readZero w rest _ hi => exact readLogOk_of_nil (by simp [readLogStep]) fun ht => absurd (hi.symm.trans ht) nofun
  | readByte hr he b hm hl =>
    obtain ⟨hlt, -⟩ := hq.read hr
    exact afterByte_taken_readLogOk hs hr hlt hl b
  | supplyOut buffer hne => exact readLogOk_congr hs rfl fun ht => absurd ht hne
  | writeStart | readEmpty | writeDone => exact readLogOk_congr hs (by simp [readLogStep]) nofun
  | _ => exact readLogOk_congr hs (by simp [illegalC, readLogStep]) fun ht => ⟨ht, rfl, rfl⟩

/-- Settles O46: a READ step adds one translated byte to the log, and a READ begins with none. -/
theorem everyStepKeepsTheTranslationLaw : Obligations.EveryStepKeepsTheTranslationLaw := by
  intro s t hq hs h
  obtain ⟨-, m, -, hc⟩ := step_cases h
  exact hc.readLogOk (takeMove_sequencerOk hq) (readLogOk_congr hs (by simp) (by simp))

/-! ## The steps of a READ (R140, R142, R148) -/

theorem perform_readStep (hf : s.fault = none) (hr : s.cseq = .read) : perform .seqStep s = .next (readStep s) := by
  rw [perform_effect (by simp [canStep, canSeqStep, hf, hr])]
  simp [effect, sequencerStep, hr]

theorem afterByte_CR (s : State) : afterByte CR s = finishRead .cr s := if_pos rfl

theorem afterByte_of_max {b : Byte} (hb : b ≠ CR) (h : s.rdCnt = s.rdMax) : afterByte b s = finishRead .max s := by
  rw [afterByte, if_neg hb, if_pos h]

theorem afterByte_of_more {b : Byte} (hb : b ≠ CR) (h : s.rdCnt ≠ s.rdMax) : afterByte b s = s := by
  rw [afterByte, if_neg hb, if_neg h]

/-- A READ in progress has a byte left to its bound, and HOSTOUT has room for it. -/
theorem SequencerOk.room (h : SequencerOk s) (hr : s.cseq = .read) :
    s.rdCnt < s.rdMax ∧ s.rdCnt.toNat < s.hostOut.length := by
  obtain ⟨hlt, hlen, -⟩ := h.read hr
  exact ⟨hlt, (BitVec.lt_def.1 hlt).trans_le hlen⟩

/-- Finishing answers the count and ends the READ; here up to the history. -/
theorem finishRead_eq (r : StopReason) (s : State) (h : List Event) :
    { finishRead r s with history := h } =
      { s with history := h, respq := s.respq ++ [s.rdCnt.setWidth 16], cseq := .idle, rdMax := 0, rdCnt := 0 } := by
  rw [← responseWord_ok]
  rfl

/-- The event before the finish stands before the stop. -/
theorem finishRead_history_prefix (r : StopReason) {e : Event} {n : Cnt} (h : t.history = s.history ++ [e])
    (hn : t.rdCnt = n) : s.history ++ [e, .readStop r n] <+: (finishRead r t).history :=
  ⟨[.resp (responseWord .ok n)], by simp [h, hn]⟩

/-- Settles O11: the three outcomes of the command step. -/
theorem readStarts : Obligations.ReadStarts :=
  ⟨fun m => decodeC_encode (i := .read m) rfl, fun _ _ => exec_read_of_short,
    fun s => ⟨_, exec_read_zero s, by simp, rfl⟩, fun _ _ hl h0 => ⟨exec_read_of_room hl h0, rfl⟩⟩

/-- Settles O12: one case for each outcome of the step. -/
theorem readStepDrainsTranslatesAndStops : Obligations.ReadStepDrainsTranslatesAndStops := by
  refine ⟨fun s hr => by simp [canStep, canSeqStep, hr], fun s hs hr => hs.room hr, fun s hf hr => ?_⟩
  rw [perform_readStep hf hr]
  refine ⟨fun he => ?_, fun he hm => ?_, fun he hm hl => ?_, fun b he hm hb hl => ?_⟩
  · rw [readStep_of_empty (emptyR_eq_true_iff.2 he)]
    exact ⟨_, rfl, List.prefix_append _ _, finishRead_eq _ _ _⟩
  · rw [readStep_of_unwritten (emptyR_eq_false_iff.2 he) hm]
    rfl
  · rw [readStep_of_byte (emptyR_eq_false_iff.2 he) hm hl]
    exact ⟨_, congrArg _ (afterByte_CR _), finishRead_history_prefix .cr rfl rfl, finishRead_eq _ _ _⟩
  · rw [readStep_of_byte (emptyR_eq_false_iff.2 he) hm hl, crToLf_of_ne hb]
    refine ⟨fun hmax => ?_, fun hmore => congrArg _ (afterByte_of_more hb hmore)⟩
    exact ⟨_, congrArg _ (afterByte_of_max hb hmax), finishRead_history_prefix .max rfl rfl, finishRead_eq _ _ _⟩

/-- Settles O13: the step meets a buffer seen empty before it has taken a byte. -/
theorem readOfEmptyBufferReturnsZero : Obligations.ReadOfEmptyBufferReturnsZero := by
  intro m s hf h0 hl he
  refine ⟨_, _, exec_read_of_room hl h0, perform_readStep (by exact hf) rfl, ?_⟩
  rw [readStep_of_empty (emptyR_eq_true_iff.2 (by exact he)), finishRead_eq]
  rfl

/-! ## A READ in progress (R143, R146) -/

/-- A READ is in progress in a state in which its steps meet no fault. -/
structure InRead (s : State) : Prop where
  order : PointerOrder s
  fifo : FifoOrder s
  fault : s.fault = none
  cseq : s.cseq = .read
  lt : s.rdCnt < s.rdMax
  room : s.rdMax.toNat ≤ s.hostOut.length

theorem InRead.index_lt (h : InRead s) : s.rdCnt.toNat < s.hostOut.length :=
  (BitVec.lt_def.1 h.lt).trans_le h.room

/-- Taking a byte does to the buffer what GET does. -/
theorem taken_sameBuffer (s : State) (b : Byte) : SameBuffer (record (.getOk b) s.removed) (s.taken b) where
  puts := by simp [putsStep]
  removed := by simp [removedStep]
  inits := by simp [initCount]

/-- What a step of such a READ does: it finds the buffer empty and finishes, or takes a byte and finishes at the CR or at
the bound, or takes a byte and goes on. -/
inductive ReadStepCase (s : State) : State → Prop where
  | empty (he : emptyR s = true) : ReadStepCase s (finishRead .empty s)
  | last (b : Byte) (he : emptyR s = false) (hm : Memory.read s.mem s.tail = some b)
      (hb : b = CR ∨ s.rdCnt + 1 = s.rdMax) (r : StopReason) : ReadStepCase s (finishRead r (s.taken b))
  | more (b : Byte) (he : emptyR s = false) (hm : Memory.read s.mem s.tail = some b) (hb : b ≠ CR)
      (h : InRead (s.taken b)) : ReadStepCase s (s.taken b)

theorem InRead.readStep_cases (h : InRead s) : ReadStepCase s (readStep s) := by
  cases he : emptyR s with
  | true => exact readStep_of_empty he ▸ .empty he
  | false =>
    obtain ⟨b, -, hm⟩ := exists_oldest h.order h.fifo he
    rw [readStep_of_byte he hm h.index_lt]
    rcases afterByte_cases b (s.taken b) with ⟨hb, e⟩ | ⟨-, hmax, e⟩ | ⟨hb, hne, e⟩ <;> rw [e]
    · exact .last b he hm (.inl hb) _
    · exact .last b he hm (.inr hmax) _
    · refine .more b he hm hb ⟨?_, ?_, h.fault, h.cseq, ?_, by simpa using h.room⟩
      · exact (taken_sameBuffer s b).pointerOrder (h.order.removed he b)
      · exact (taken_sameBuffer s b).fifoOrder (h.fifo.getOk h.order he hm)
      · have hlt := h.lt
        have hne : s.rdCnt + 1 ≠ s.rdMax := hne
        show s.rdCnt + 1 < s.rdMax
        bv_omega

/-! ## A READ among the moves of other agents (R146) -/

/-- `t` has what a READ in progress in `s` keeps while other agents move, and the same moves to come. -/
structure SameRead (s t : State) : Prop where
  fault : t.fault = s.fault := by rfl
  cseq : t.cseq = s.cseq := by rfl
  rdCnt : t.rdCnt = s.rdCnt := by rfl
  rdMax : t.rdMax = s.rdMax := by rfl
  respq : t.respq = s.respq := by rfl
  hostOut : t.hostOut = s.hostOut := by rfl
  schedule : t.schedule = s.schedule := by rfl

/-- During a READ no command is taken and HOSTOUT is the block's, so only the sequencer's own move matters to it. -/
theorem StepCase.sameRead (hr : s.cseq = .read) (hm : m ≠ .seqStep) (h : StepCase s m t) : SameRead s t := by
  cases h with
  | pass | rxEn | receive | submit | supplySrc | w2r | w2rAll | r2w | r2wAll | accept | putFull | putOk => exact {}
  | supplyOut buffer hne => exact absurd hr hne
  | readEmpty | readUnwritten | readNoRoom | readByte | writeNoByte | writeOffer | writeDone => exact absurd rfl hm
  | illegal _ _ _ hi | nop _ _ _ hi | initRace _ _ _ hi | init _ _ _ hi | getEmpty _ _ _ hi | getUnwritten _ _ _ hi
  | getOk _ _ _ hi | readBounds _ _ _ hi | readZero _ _ _ hi | readStart _ _ _ hi | writeBounds _ _ _ hi
  | writeZero _ _ _ hi | writeStart _ _ _ hi => exact absurd (hr.symm.trans hi) nofun

theorem InRead.of_sameRead (h : InRead s) (ho : PointerOrder t) (hq : FifoOrder t) (hs : SameRead s t) : InRead t :=
  ⟨ho, hq, hs.fault.trans h.fault, hs.cseq.trans h.cseq, by rw [hs.rdCnt, hs.rdMax]; exact h.lt,
    by rw [hs.rdMax, hs.hostOut]; exact h.room⟩

/-- The READ in progress in `s` is still in progress in `t`, with no response yet and `k` more bytes taken. -/
structure ReadGoesOn (k : Nat) (s t : State) : Prop where
  inRead : InRead t
  rdMax : t.rdMax = s.rdMax
  rdCnt : t.rdCnt.toNat = s.rdCnt.toNat + k
  respq : t.respq = s.respq
  schedule : t.schedule = s.schedule

/-- The READ in progress in `s` has ended in `t` with one response, a count within its bound. -/
def ReadEnded (s t : State) : Prop :=
  t.cseq = .idle ∧ ∃ n : Cnt, n ≤ s.rdMax ∧ t.respq = s.respq ++ [n.setWidth 16]

theorem readEnded_finishRead {r : StopReason} (hle : t.rdCnt ≤ s.rdMax) (hr : t.respq = s.respq) :
    ReadEnded s (finishRead r t) :=
  ⟨rfl, t.rdCnt, hle, by rw [finishRead_respq, responseWord_ok, hr]⟩

theorem ReadStepCase.progress (hlt : s.rdCnt < s.rdMax) (h : ReadStepCase s t) : ReadGoesOn 1 s t ∨ ReadEnded s t := by
  cases h with
  | empty => exact .inr (readEnded_finishRead (BitVec.le_of_lt hlt) rfl)
  | last b =>
    have hle : s.rdCnt + 1 ≤ s.rdMax := by bv_omega
    exact .inr (readEnded_finishRead hle rfl)
  | more b he hm hb hread => exact .inl ⟨hread, rfl, toNat_add_one_of_lt hlt, rfl, rfl⟩

/-- Any move leaves a READ in progress, one byte further with a move of the sequencer, or ends it. -/
theorem InRead.perform_progress (h : InRead s) (hp : perform m s = .next t) :
    ReadGoesOn ([m].count .seqStep) s t ∨ ReadEnded s t := by
  by_cases hm : m = .seqStep
  · subst hm
    rw [perform_readStep h.fault h.cseq] at hp
    cases hp
    exact h.readStep_cases.progress h.lt
  · have hs := (perform_cases hp).sameRead h.cseq hm
    have ht := h.of_sameRead (perform_pointerOrder h.order hp) (perform_fifoOrder h.order h.fifo hp) hs
    exact .inl ⟨ht, hs.rdMax, by simp [hs.rdCnt, hm], hs.respq, hs.schedule⟩

theorem run_succ_of_step {M : Host.Core} {a b : M.State} (h : M.step a = .next b) (k : Nat) :
    M.run (k + 1) a = M.run k b := by
  simp [Host.Core.run, h]

/-- Each scheduled sequencer move takes a byte or ends the READ, so enough of them end it. -/
theorem InRead.run_ends (ms : List Move) (h : InRead s) (hs : s.schedule = ms)
    (hcount : s.rdMax.toNat - s.rdCnt.toNat ≤ ms.count .seqStep) :
    ∃ k t, k ≤ ms.length ∧ Host.Core.run core k s = .next t ∧ ReadEnded s t := by
  induction ms generalizing s with
  | nil =>
    have hlt := BitVec.lt_def.1 h.lt
    rw [List.count_nil] at hcount
    omega
  | cons m rest ih =>
    have h' : InRead { s with schedule := rest } :=
      ⟨SameBuffer.pointerOrder {} h.order, SameBuffer.fifoOrder {} h.fifo, h.fault, h.cseq, h.lt, h.room⟩
    obtain ⟨u, hu⟩ := exists_perform m { s with schedule := rest }
    have hstep := run_succ_of_step (M := core) ((step_of_schedule h.fault hs).trans hu)
    obtain hgo | hend := h'.perform_progress hu
    · have hmax : u.rdMax = s.rdMax := hgo.rdMax
      have hcnt : u.rdCnt.toNat = s.rdCnt.toNat + [m].count .seqStep := hgo.rdCnt
      have hresp : u.respq = s.respq := hgo.respq
      rw [← List.singleton_append, List.count_append] at hcount
      obtain ⟨k, t, hk, hrun, hidle, n, hn, ht⟩ := ih hgo.inRead hgo.schedule (by rw [hmax, hcnt]; omega)
      exact ⟨k + 1, t, Nat.succ_le_succ hk, (hstep k).trans hrun, hidle, n, hmax ▸ hn, hresp ▸ ht⟩
    · exact ⟨1, u, by simp, hstep 0, hend⟩

/-- Settles O54: the invariants make every step of the READ one that meets no fault. -/
theorem readTerminatesWhateverOthersDo : Obligations.ReadTerminatesWhateverOthersDo := by
  intro s ms ho hq hseq hf hr hs hcount
  obtain ⟨hlt, hroom, -⟩ := hseq.read hr
  exact InRead.run_ends ms ⟨ho, hq, hf, hr, hlt, hroom⟩ hs hcount

/-! ## A READ that nothing interrupts (R146, R147, R149) -/

/-- Where the read side sees every byte put and yet no byte, none is stored. -/
theorem storedBytes_of_empty (h : InRead s) (hseen : ghostHsView s = s.ghostH) (he : emptyR s = true) :
    storedBytes s = [] := by
  have hT := (emptyR_iff h.order).1 he
  rw [storedBytes_eq_drop h.order h.fifo, List.drop_eq_nil_iff, h.fifo.puts]
  omega

/-- The byte at `tail` is the first stored one, and a READ step that takes it leaves the others. -/
theorem storedBytes_taken (h : InRead s) {b : Byte} (he : emptyR s = false) (hm : Memory.read s.mem s.tail = some b) :
    storedBytes s = b :: storedBytes (s.taken b) := by
  have hlt : s.ghostT < s.ghostH := (lt_of_emptyR h.order he).trans_le h.order.hsH
  obtain ⟨hT, hb⟩ := List.getElem?_eq_some_iff.1 ((read_tail h.order h.fifo hlt).symm.trans hm)
  have hrest := storedBytes_eq_drop (h.order.removed he b) (h.fifo.getOk h.order he hm)
  have hputs : putsSinceInit (record (.getOk b) s.removed).history = putsSinceInit s.history := by simp [putsStep]
  rw [hputs] at hrest
  rw [storedBytes_eq_drop h.order h.fifo, List.drop_eq_getElem_cons hT, hb]
  exact congrArg _ hrest.symm

/-- The READ in progress in `s` has ended in `t`, having taken `line` since `s`: RESPQ, HOSTOUT and the stored bytes. -/
structure Drained (s : State) (line : List Byte) (t : State) : Prop where
  cseq : t.cseq = .idle
  fault : t.fault = none
  respq : t.respq = s.respq ++ [BitVec.ofNat 16 (s.rdCnt.toNat + line.length)]
  hostOut : t.hostOut =
    s.hostOut.take s.rdCnt.toNat ++ line.map crToLf ++ s.hostOut.drop (s.rdCnt.toNat + line.length)
  stored : storedBytes t = (storedBytes s).drop line.length

theorem drained_finishRead (hf : s.fault = none) (r : StopReason) : Drained s [] (finishRead r s) where
  cseq := rfl
  fault := hf
  respq := by simp [responseWord_ok]
  hostOut := by simp
  stored := rfl

/-- The byte taken first stands before the line taken after it. -/
theorem Drained.cons {b : Byte} {line : List Byte} (h : InRead s) (hb : storedBytes s = b :: storedBytes (s.taken b))
    (hd : Drained (s.taken b) line t) : Drained s (b :: line) t := by
  have hcnt : (s.taken b).rdCnt.toNat = s.rdCnt.toNat + 1 := toNat_add_one_of_lt h.lt
  have hsum : s.rdCnt.toNat + 1 + line.length = s.rdCnt.toNat + (b :: line).length := by
    rw [List.length_cons]
    omega
  have hout : (s.taken b).hostOut = s.hostOut.set s.rdCnt.toNat (crToLf b) := rfl
  refine ⟨hd.cseq, hd.fault, ?_, ?_, ?_⟩
  · rw [hd.respq, hcnt, hsum]
    rfl
  · rw [hd.hostOut, hcnt, hsum, hout, take_set_succ h.index_lt, List.drop_set_of_lt (by simp)]
    simp
  · rw [hd.stored, hb]
    rfl

theorem performAll_cons (h : perform m s = .next t) (ms : List Move) : performAll (m :: ms) s = performAll ms t := by
  simp only [performAll, h]

theorem performAll_seqStep_of_idle (hi : s.cseq = .idle) (n : Nat) :
    performAll (List.replicate n .seqStep) s = .next s := by
  have hpass : perform .seqStep s = .next s := perform_pass (by simp [canStep, canSeqStep, hi])
  induction n with
  | zero => rfl
  | succ n ih => rw [List.replicate_succ, performAll_cons hpass, ih]

/-- As many sequencer moves as the READ has bytes left to its bound take the line from a buffer seen to its end. -/
theorem InRead.drains (n : Nat) (h : InRead s) (hseen : ghostHsView s = s.ghostH)
    (hleft : s.rdCnt.toNat + n = s.rdMax.toNat) :
    ∃ t, performAll (List.replicate n .seqStep) s = .next t ∧ Drained s (takeLine n (storedBytes s)) t := by
  have hlt := BitVec.lt_def.1 h.lt
  induction n generalizing s with
  | zero => omega
  | succ n ih =>
    rw [List.replicate_succ, performAll_cons (perform_readStep h.fault h.cseq)]
    have hc := h.readStep_cases
    generalize readStep s = u at hc
    cases hc with
    | empty he =>
      rw [storedBytes_of_empty h hseen he]
      exact ⟨_, performAll_seqStep_of_idle rfl n, drained_finishRead h.fault _⟩
    | last b he hm hb r =>
      have hstored := storedBytes_taken h he hm
      have hline : takeLine (n + 1) (storedBytes s) = [b] := by
        rw [hstored, takeLine]
        obtain hcr | hmax := hb
        · rw [if_pos hcr]
        · have hn : n = 0 := by
            rw [← hmax, toNat_add_one_of_lt h.lt] at hleft
            omega
          rw [hn, takeLine, ite_self]
      rw [hline]
      exact ⟨_, performAll_seqStep_of_idle rfl n, .cons h hstored (drained_finishRead (by exact h.fault) r)⟩
    | more b he hm hb hread =>
      have hstored := storedBytes_taken h he hm
      have hcnt : (s.taken b).rdCnt.toNat = s.rdCnt.toNat + 1 := toNat_add_one_of_lt h.lt
      have hleft' : (s.taken b).rdCnt.toNat + n = (s.taken b).rdMax.toNat := by
        show _ = s.rdMax.toNat
        omega
      obtain ⟨t, hrun, hd⟩ := ih hread hseen hleft' (BitVec.lt_def.1 hread.lt)
      rw [hstored, takeLine, if_neg hb]
      exact ⟨t, hrun, .cons h hstored hd⟩

/-- The state in which READ `m` has started (R140). -/
abbrev State.started (s : State) (m : Cnt) : State :=
  record (.readStart m) { s with rdMax := m, rdCnt := 0, cseq := .read }

theorem inRead_started {n : Cnt} (ho : PointerOrder s) (hq : FifoOrder s) (hf : s.fault = none) (h0 : n ≠ 0)
    (hl : n.toNat ≤ s.hostOut.length) : InRead (s.started n) := by
  have hsame : SameBuffer s (s.started n) := .record {}
  exact ⟨hsame.pointerOrder ho, hsame.fifoOrder hq, hf, rfl, (BitVec.pos_iff_ne_zero n).2 h0, hl⟩

/-- Settles O55: the READ starts with its whole bound to go, in a buffer whose bytes are all seen. -/
theorem uninterruptedReadReturnsTheLine : Obligations.UninterruptedReadReturnsTheLine := by
  intro s m ho hq hset hf _ h0 hl
  have hstart : storedBytes (s.started m) = storedBytes s := rfl
  obtain ⟨hseen, -⟩ := settled_views ho hset
  obtain ⟨t, hrun, hd⟩ := (inRead_started ho hq hf h0 hl).drains m.toNat hseen (by simp)
  rw [hstart] at hd
  exact ⟨_, t, exec_read_of_room hl h0, hrun, hd.cseq, hd.fault, by simpa using hd.respq, by simpa using hd.hostOut,
    hd.stored⟩

end Sys2Proof.Machine

/-! SUPPORT. Proofs about the writer (42_writer.md): its command step, its offers and its finish, the order of the bytes it
sends, and the WRITE whose bytes are accepted as they are offered. -/

namespace Sys2Proof.Machine

variable {s t : State} {m : Move}

/-! ## The steps of a WRITE and of TX (42_writer.md R160, R162, R163) -/

theorem canStep_writeStep_iff (hw : s.cseq = .write) :
    canStep .seqStep s = true ↔ s.fault = none ∧ s.txValid = false := by
  simp [canStep, canSeqStep, hw]

theorem canStep_accept_iff : canStep .accept s = true ↔ s.fault = none ∧ s.txValid = true := by simp [canStep]

theorem perform_writeStep (hf : s.fault = none) (hw : s.cseq = .write) (hv : s.txValid = false) :
    perform .seqStep s = .next (writeStep s) := by
  rw [perform_effect ((canStep_writeStep_iff hw).2 ⟨hf, hv⟩)]
  simp [effect, sequencerStep, hw]

theorem perform_accept (hf : s.fault = none) (hv : s.txValid = true) : perform .accept s = .next (txAccept s) :=
  perform_effect (canStep_accept_iff.2 ⟨hf, hv⟩)

/-- Finishing answers the count and ends the WRITE; here up to the history. -/
theorem finishWrite_eq (s : State) (h : List Event) :
    { finishWrite s with history := h } =
      { s with history := h, respq := s.respq ++ [s.wrTotal.setWidth 16], cseq := .idle, wrTotal := 0, wrIdx := 0 } := by
  rw [← responseWord_ok]
  rfl

/-- Settles O14: the three outcomes of the command step. -/
theorem writeStarts : Obligations.WriteStarts :=
  ⟨fun c => decodeC_encode (i := .write c) rfl, fun _ _ => exec_write_of_short,
    fun s => ⟨_, exec_write_zero s, by simp, rfl⟩, fun _ _ hl h0 => ⟨exec_write_of_room hl h0, rfl⟩⟩

/-- Settles O15: below the total the step offers, and at the total it finishes. -/
theorem writeStepOffersOrFinishes : Obligations.WriteStepOffersOrFinishes := by
  refine ⟨fun s hw => canStep_writeStep_iff hw, fun s hf hw hv => ?_⟩
  rw [perform_writeStep hf hw hv]
  refine ⟨fun b hlt hb => congrArg _ (writeStep_of_byte hlt hb), fun hend => ?_⟩
  have hge : ¬ s.wrIdx < s.wrTotal := hend ▸ BitVec.lt_irrefl _
  rw [writeStep_of_end hge]
  exact ⟨_, rfl, List.prefix_append _ _, finishWrite_eq _ _⟩

/-- Settles O16: the step is `txAccept`. -/
theorem acceptTransmitsTheOfferedByte : Obligations.AcceptTransmitsTheOfferedByte :=
  ⟨fun _ => canStep_accept_iff, fun _ hf hv => perform_accept hf hv⟩

/-! ## The ring buffer during a WRITE (R165) -/

/-- The state with other contents of RBMEM, the pointers and the copies. -/
abbrev State.withRing (s : State) (mem : Memory) (h r hs rs : Nat) : State :=
  { s with mem := mem, head := h, tail := r, headSync := hs, tailSync := rs }

theorem writeStep_withRing (s : State) (mem : Memory) (h r hs rs : Nat) :
    writeStep (s.withRing mem h r hs rs) = (writeStep s).withRing mem h r hs rs := by
  by_cases hi : s.wrIdx < s.wrTotal
  · cases hb : s.hostSrc[s.wrIdx.toNat]? with
    | none =>
      rw [writeStep_of_noByte hi hb, writeStep_of_noByte (by exact hi) (by exact hb)]
      rfl
    | some b =>
      rw [writeStep_of_byte hi hb, writeStep_of_byte (by exact hi) (by exact hb)]
      rfl
  · rw [writeStep_of_end hi, writeStep_of_end (by exact hi)]
    rfl

theorem perform_writeStep_withRing (hw : s.cseq = .write) (hp : perform .seqStep s = .next t) (mem : Memory)
    (h r hs rs : Nat) :
    perform .seqStep (s.withRing mem h r hs rs) = .next (t.withRing mem h r hs rs) := by
  have hsame : canStep .seqStep (s.withRing mem h r hs rs) = canStep .seqStep s := rfl
  cases hc : canStep .seqStep s with
  | false =>
    rw [perform_pass hc] at hp
    cases hp
    exact perform_pass (hsame.trans hc)
  | true =>
    obtain ⟨hf, hv⟩ := (canStep_writeStep_iff hw).1 hc
    rw [perform_writeStep hf hw hv] at hp
    cases hp
    rw [perform_writeStep (by exact hf) (by exact hw) (by exact hv), writeStep_withRing]

/-- Settles O30: the step commutes with putting other contents there; with the state's own contents put there, this says
that the step leaves them. -/
theorem writeStepIgnoresTheRingBuffer : Obligations.WriteStepIgnoresTheRingBuffer := by
  intro s t mem h r hs rs hw hp
  refine ⟨perform_writeStep_withRing hw hp mem h r hs rs, ?_⟩
  have hown := perform_writeStep_withRing hw hp s.mem s.head s.tail s.headSync s.tailSync
  have ht : t = t.withRing s.mem s.head s.tail s.headSync s.tailSync := Host.Outcome.next.inj (hp.symm.trans hown)
  rw [ht]
  exact ⟨rfl, rfl, rfl, rfl, rfl⟩

/-! ## The order of the bytes of a WRITE (R163, R164) -/

/-- The write order reads only the bytes accepted since the WRITE started, the offer, the index and HOSTSRC. -/
theorem writeLogOk_congr (h : WriteLogOk s) (hl : txSinceWrite t.history = txSinceWrite s.history)
    (hw : t.cseq = .write → s.cseq = .write ∧ t.txValid = s.txValid ∧ t.txData = s.txData ∧ t.wrIdx = s.wrIdx ∧
      t.hostSrc = s.hostSrc) : WriteLogOk t := by
  intro ht
  obtain ⟨hs, hv, hd, hi, hsrc⟩ := hw ht
  rw [hl, hv, hd, hi, hsrc]
  exact h hs

theorem writeLogOk_of_ne_write (h : s.cseq ≠ .write) : WriteLogOk s := fun hw => absurd hw h

/-- Where no byte is offered, the bytes accepted are the first `wr_idx` bytes of HOSTSRC. -/
theorem WriteLogOk.accepted (h : WriteLogOk s) (hw : s.cseq = .write) (hv : s.txValid = false) :
    txSinceWrite s.history = s.hostSrc.take s.wrIdx.toNat := by
  simpa [hv] using h hw

/-- The byte offered is the next one of HOSTSRC. -/
theorem offer_writeLogOk (hs : WriteLogOk s) (hw : s.cseq = .write) (hv : s.txValid = false)
    (hlt : s.wrIdx < s.wrTotal) {b : Byte} (hb : s.hostSrc[s.wrIdx.toNat]? = some b) :
    WriteLogOk { emitTx b s with wrIdx := s.wrIdx + 1 } := by
  intro _
  calc txSinceWrite s.history ++ [b] = s.hostSrc.take s.wrIdx.toNat ++ [b] := by rw [hs.accepted hw hv]
    _ = s.hostSrc.take (s.wrIdx + 1).toNat := by
      rw [toNat_add_one_of_lt hlt, List.take_add_one, hb, Option.toList_some]

/-- The byte accepted passes from the offer to the bytes accepted. -/
theorem txAccept_writeLogOk (hs : WriteLogOk s) (hv : s.txValid = true) : WriteLogOk (txAccept s) := by
  intro hw
  simpa [txStep, hv] using hs hw

theorem afterByte_cseq_ne_write (hr : s.cseq = .read) (b : Byte) : (afterByte b s).cseq ≠ .write := by
  rcases afterByte_cases b s with ⟨-, e⟩ | ⟨-, -, e⟩ | ⟨-, -, e⟩ <;> simp [e, hr]

theorem StepCase.writeLogOk (hq : SequencerOk s) (hs : WriteLogOk s) (h : StepCase s m t) : WriteLogOk t := by
  cases h with
  | writeOffer hw hv hlt b hb => exact offer_writeLogOk hs hw hv hlt hb
  | accept hv => exact txAccept_writeLogOk hs hv
  | writeStart w rest _ hi =>
    obtain ⟨-, -, -, -, hv⟩ := hq.idle hi
    intro _
    simp [txStep, hv]
  | writeZero w rest _ hi => exact writeLogOk_of_ne_write (by simp [hi])
  | readByte hr he b => exact writeLogOk_of_ne_write (afterByte_cseq_ne_write (by exact hr) b)
  | supplySrc buffer hne => exact writeLogOk_of_ne_write hne
  | readStart | readEmpty | writeDone => exact writeLogOk_of_ne_write nofun
  | _ => exact writeLogOk_congr hs (by simp [illegalC, txStep]) fun ht => ⟨ht, rfl, rfl, rfl, rfl⟩

/-- Settles O47: an offer adds the next byte of HOSTSRC, an acceptance moves it, and a WRITE begins with none. -/
theorem everyStepKeepsTheWriteOrder : Obligations.EveryStepKeepsTheWriteOrder := by
  intro s t hq hs h
  obtain ⟨-, m, -, hc⟩ := step_cases h
  exact hc.writeLogOk (takeMove_sequencerOk hq) (writeLogOk_congr hs (by simp) (by simp))

/-- During a WRITE a move answers nothing and leaves the WRITE in progress, or it is the finish, at the total with no byte
offered. -/
theorem StepCase.write_cases (hw : s.cseq = .write) (h : StepCase s m t) :
    (t.respq = s.respq ∧ t.cseq = .write) ∨ (s.txValid = false ∧ ¬ s.wrIdx < s.wrTotal ∧ t = finishWrite s) := by
  cases h with
  | writeDone _ hv hge => exact .inr ⟨hv, hge, rfl⟩
  | pass | rxEn | receive | submit | supplyOut | supplySrc | w2r | w2rAll | r2w | r2wAll | accept | putFull | putOk
  | writeNoByte | writeOffer => exact .inl ⟨rfl, hw⟩
  | readEmpty hr | readUnwritten hr | readNoRoom hr | readByte hr => exact absurd (hw.symm.trans hr) nofun
  | illegal _ _ _ hi | nop _ _ _ hi | initRace _ _ _ hi | init _ _ _ hi | getEmpty _ _ _ hi | getUnwritten _ _ _ hi
  | getOk _ _ _ hi | readBounds _ _ _ hi | readZero _ _ _ hi | readStart _ _ _ hi | writeBounds _ _ _ hi
  | writeZero _ _ _ hi | writeStart _ _ _ hi => exact absurd (hw.symm.trans hi) nofun

/-- Settles O48: only the finish answers or ends a WRITE, and there `wr_idx` has reached the total. -/
theorem writeAnswersAfterTheLastAcceptance : Obligations.WriteAnswersAfterTheLastAcceptance := by
  intro m s t hq hs _ hw hp hchange
  obtain ⟨hr, hc⟩ | ⟨hv, hge, rfl⟩ := (perform_cases hp).write_cases hw
  · exact absurd hchange (by simp [hr, hc])
  · obtain ⟨hle, -, hlen, -⟩ := hq.write hw
    have hend : s.wrIdx = s.wrTotal := BitVec.le_antisymm hle (BitVec.not_lt.1 hge)
    have hsent : txSinceWrite s.history = s.hostSrc.take s.wrTotal.toNat := hend ▸ hs.accepted hw hv
    exact ⟨by rw [finishWrite_respq, responseWord_ok], rfl, hv, hsent, by rw [hsent, List.length_take_of_le hlen]⟩

/-! ## A WRITE whose bytes are accepted as they are offered (R163, R164, R235) -/

/-- A WRITE is in progress with no byte offered and `n` bytes to offer, all of them in HOSTSRC. -/
structure InWrite (n : Nat) (s : State) : Prop where
  fault : s.fault = none
  cseq : s.cseq = .write
  txValid : s.txValid = false
  left : s.wrIdx.toNat + n = s.wrTotal.toNat
  room : s.wrTotal.toNat ≤ s.hostSrc.length

/-- The state in which a WRITE step has offered `b` and TX has accepted it. -/
abbrev State.sent (s : State) (b : Byte) : State := txAccept { emitTx b s with wrIdx := s.wrIdx + 1 }

/-- The WRITE in progress in `s` has ended in `t`, having transmitted `bytes` since `s`: TXLOG, the response, and the ring
buffer as it was. -/
structure Sent (s : State) (bytes : List Byte) (t : State) : Prop where
  cseq : t.cseq = .idle
  txLog : t.txLog = s.txLog ++ bytes
  respq : t.respq = s.respq ++ [s.wrTotal.setWidth 16]
  buffer : SameBuffer s t

theorem sent_finishWrite (s : State) : Sent s [] (finishWrite s) where
  cseq := rfl
  txLog := (List.append_nil _).symm
  respq := by rw [finishWrite_respq, responseWord_ok]
  buffer := .finishWrite {}

/-- The byte sent first stands before the bytes sent after it. -/
theorem Sent.cons {b : Byte} {bytes : List Byte} (h : Sent (s.sent b) bytes t) : Sent s (b :: bytes) t where
  cseq := h.cseq
  txLog := by simp [h.txLog]
  respq := h.respq
  buffer := SameBuffer.trans (.record {}) h.buffer

/-- An offer and its acceptance send the next byte of HOSTSRC. -/
theorem InWrite.sends {n : Nat} (h : InWrite (n + 1) s) :
    ∃ b, s.hostSrc.drop s.wrIdx.toNat = b :: (s.sent b).hostSrc.drop (s.sent b).wrIdx.toNat ∧ InWrite n (s.sent b) ∧
      ∀ ms, performAll (.seqStep :: .accept :: ms) s = performAll ms (s.sent b) := by
  obtain ⟨hf, hw, hv, hleft, hroom⟩ := h
  have hlt : s.wrIdx < s.wrTotal := BitVec.lt_def.2 (by omega)
  have hidx : s.wrIdx.toNat < s.hostSrc.length := by omega
  have hsucc : (s.wrIdx + 1).toNat = s.wrIdx.toNat + 1 := toNat_add_one_of_lt hlt
  refine ⟨s.hostSrc[s.wrIdx.toNat], ?_, ⟨hf, hw, rfl, ?_, hroom⟩, fun ms => ?_⟩
  · rw [List.drop_eq_getElem_cons hidx, ← hsucc]
    rfl
  · show (s.wrIdx + 1).toNat + n = s.wrTotal.toNat
    omega
  · rw [performAll_cons (perform_writeStep hf hw hv), writeStep_of_byte hlt (List.getElem?_eq_getElem hidx),
      performAll_cons (perform_accept (by exact hf) rfl)]

/-- As many pairs of an offer and an acceptance as bytes are left, and one more step, send the rest of the WRITE. -/
theorem InWrite.completes {n : Nat} (h : InWrite n s) :
    ∃ t, performAll ((List.replicate n [Move.seqStep, .accept]).flatten ++ [.seqStep]) s = .next t ∧
      Sent s ((s.hostSrc.drop s.wrIdx.toNat).take n) t := by
  induction n generalizing s with
  | zero =>
    have hge : ¬ s.wrIdx < s.wrTotal := BitVec.not_lt.2 (BitVec.le_def.2 h.left.ge)
    refine ⟨finishWrite s, ?_, sent_finishWrite s⟩
    exact performAll_cons ((perform_writeStep h.fault h.cseq h.txValid).trans (congrArg _ (writeStep_of_end hge))) []
  | succ n ih =>
    obtain ⟨b, hnext, hrest, hpair⟩ := h.sends
    obtain ⟨t, hrun, ht⟩ := ih hrest
    rw [hnext, List.take_succ_cons]
    exact ⟨t, (hpair _).trans hrun, ht.cons⟩

/-- Settles O56: the WRITE starts with its whole count to send. -/
theorem acceptedWriteTransmitsTheBuffer : Obligations.AcceptedWriteTransmitsTheBuffer := by
  intro s c hf _ hv h0 hl
  have hstart : InWrite c.toNat (record (.writeStart c) { s with wrTotal := c, wrIdx := 0, cseq := .write }) :=
    ⟨hf, rfl, hv, Nat.zero_add _, hl⟩
  obtain ⟨t, hrun, ht⟩ := hstart.completes
  exact ⟨_, t, exec_write_of_room hl h0, hrun, ht.cseq, ht.txLog, ht.respq, ht.buffer.mem, ht.buffer.head,
    ht.buffer.tail⟩

end Sys2Proof.Machine

/-! SUPPORT. Proofs about exceptions, scheduling and the agents together (60_exceptions.md): which moves answer a next
state, what the host drives and samples, the commands that wait, the overrun counter, the bounds of the host's buffers,
and the order of a PUT and a removal. -/

namespace Sys2Proof.Machine

variable {s t g u p : State} {m : Move} {e : Event} {b : Byte}

/-! ## Steps and the schedule (60_exceptions.md R180, R195) -/

/-- Settles O19: `exists_exec`, by the operations. -/
theorem everyOperationAnswersANextState : Obligations.EveryOperationAnswersANextState := exists_exec

theorem step_of_fault_none (hf : s.fault = none) : step s = perform (nextMove s) (takeMove s) := by
  simp [step, scheduledStep, hf]

/-- Settles O20: without the mark a step is the next move, which answers a next state. -/
theorem onlyTheFaultMarkStopsTheMachine : Obligations.OnlyTheFaultMarkStopsTheMachine := by
  intro s hf
  rw [step_of_fault_none hf]
  exact exists_perform _ _

/-- A step performs a free move where nothing is scheduled (log 2). -/
theorem step_of_schedule_nil (hf : s.fault = none) (hs : s.schedule = []) :
    step s = perform (Config.freeMove s.draws) { s with draws := s.draws + 1 } := by
  rw [step_of_fault_none hf]
  simp [nextMove, takeMove, hs]

/-- Taking the next move writes the model's own two fields only. -/
theorem unscheduled_takeMove (s : State) : unscheduled (takeMove s) = unscheduled s := by
  unfold takeMove
  split <;> rfl

/-- A step is the step of the same state with only its move scheduled, but for the model's own two fields. -/
theorem step_unscheduled (h : step s = .next t) :
    step { unscheduled s with schedule := [nextMove s] } = .next (unscheduled t) := by
  have hf : s.fault = none := (step_cases h).1
  have hp : perform (nextMove s) (takeMove s) = .next t := (step_of_fault_none hf).symm.trans h
  calc step { unscheduled s with schedule := [nextMove s] }
      = perform (nextMove s) (unscheduled s) := step_of_schedule (by exact hf) rfl
    _ = perform (nextMove s) (unscheduled (takeMove s)) := by rw [unscheduled_takeMove]
    _ = .next (unscheduled t) := perform_rescheduled _ hp

/-- Settles O23: the two sources of a move, and a move's independence of the model's own fields. -/
theorem stepPerformsTheScheduledMove : Obligations.StepPerformsTheScheduledMove :=
  ⟨fun _ _ _ => step_of_schedule, fun _ => step_of_schedule_nil, fun _ _ => step_unscheduled⟩

/-! ## The host (R197) -/

/-- Settles O28: the host's moves have their effects, and each output is the comparison its rule names. -/
theorem hostMovesChangeOneItem : Obligations.HostMovesChangeOneItem := by
  refine ⟨fun s hf => ⟨?_, ?_, ?_, ?_, ?_⟩,
    fun s => ⟨emptyR_eq_true_iff, fullW_eq_true_iff, bne_iff_ne, beq_iff_eq, rfl, beq_iff_eq, beq_iff_eq⟩⟩
  · exact fun on => perform_effect (by simp [canStep, hf])
  · exact fun bytes => perform_effect (by simp [canStep, hf])
  · exact fun words => perform_effect (by simp [canStep, hf])
  · exact fun buffer hr => perform_effect (by simp [canStep, hf, hr])
  · exact fun buffer hw => perform_effect (by simp [canStep, hf, hw])

/-! ## Commands wait while a READ or WRITE is in progress (R196) -/

@[simp] theorem afterByte_cmdq (b : Byte) (s : State) : (afterByte b s).cmdq = s.cmdq := by
  rw [afterByte_frame]

/-- A move leaves CMDQ alone, or appends the words the host submits, or takes the first word while the sequencer is
idle. -/
theorem StepCase.cmdq_cases (h : StepCase s m t) :
    t.cmdq = s.cmdq ∨ (∃ words, t.cmdq = s.cmdq ++ words) ∨ (s.cseq = .idle ∧ ∃ w, s.cmdq = w :: t.cmdq) := by
  cases h with
  | submit words => exact .inr (.inl ⟨words, rfl⟩)
  | illegal w rest hq hi | nop w rest hq hi | initRace w rest hq hi | init w rest hq hi | getEmpty w rest hq hi
  | getUnwritten w rest hq hi | getOk w rest hq hi | readBounds w rest hq hi | readZero w rest hq hi
  | readStart w rest hq hi | writeBounds w rest hq hi | writeZero w rest hq hi | writeStart w rest hq hi =>
    exact .inr (.inr ⟨hi, w, hq⟩)
  | readByte => exact .inl (afterByte_cmdq _ _)
  | _ => exact .inl rfl

/-- Settles O26: only an idle sequencer lets a word be taken. -/
theorem commandsWaitWhileBusy : Obligations.CommandsWaitWhileBusy := by
  intro s hbusy
  refine ⟨by simp [canStep, hbusy], fun m t h => ?_⟩
  obtain hq | hq | ⟨hi, -⟩ := (perform_cases h).cmdq_cases
  · exact ⟨[], by rw [hq, List.append_nil]⟩
  · exact hq
  · exact absurd hi hbusy

/-! ## The overrun counter (R200) -/

@[simp] theorem afterByte_ovrCnt (b : Byte) (s : State) : (afterByte b s).ovrCnt = s.ovrCnt := by
  rw [afterByte_frame]

/-- A move leaves ovr_cnt alone, or, where the counter is present, counts a dropped byte or clears the count with INIT. -/
theorem StepCase.ovrCnt_cases (h : StepCase s m t) :
    t.ovrCnt = s.ovrCnt ∨
    (s.cfg.overrunCounter = true ∧ m = .produce ∧ t.ovrCnt = s.ovrCnt + 1 ∧
      ∃ b, t.history = s.history ++ [.put b .full]) ∨
    (s.cfg.overrunCounter = true ∧ m = .command ∧ t.ovrCnt = 0 ∧ s.history ++ [.init] <+: t.history) := by
  cases h with
  | putFull b rest =>
    cases hc : s.cfg.overrunCounter with
    | false => exact .inl (by simp)
    | true => exact .inr (.inl ⟨rfl, rfl, by simp, b, rfl⟩)
  | init w rest =>
    cases hc : s.cfg.overrunCounter with
    | false => exact .inl (by simp [hc])
    | true => exact .inr (.inr ⟨rfl, rfl, by simp [hc], List.prefix_append _ _⟩)
  | readByte => exact .inl (afterByte_ovrCnt _ _)
  | _ => exact .inl rfl

/-- Settles O31: the cases of ovr_cnt over the moves, and PUT of a full buffer. -/
theorem overrunCounterCountsDrops : Obligations.OverrunCounterCountsDrops := by
  refine ⟨fun _ => rfl, fun m s t h => (perform_cases h).ovrCnt_cases, fun b s t hc hfull h => ?_⟩
  rw [exec_put_of_full hfull] at h
  cases h
  simp [hc]

/-! ## The bounds of the host's buffers (R193) -/

/-- A WRITE in progress has its next byte in HOSTSRC. -/
theorem SequencerOk.hostSrc_index (h : SequencerOk s) (hw : s.cseq = .write) (hi : s.wrIdx < s.wrTotal) :
    s.wrIdx.toNat < s.hostSrc.length := by
  obtain ⟨-, -, hlen, -⟩ := h.write hw
  exact (BitVec.lt_def.1 hi).trans_le hlen

/-- Settles O45: the sequencer invariant keeps rd_cnt within HOSTOUT and wr_idx within HOSTSRC. -/
theorem startedOperationStaysInItsBuffer : Obligations.StartedOperationStaysInItsBuffer := by
  intro s t hs hf h
  have hnone : s.fault ≠ some .hostbufBounds := by simp [hf]
  cases perform_cases h with
  | readNoRoom hr he b hm hl => exact absurd (hs.room hr).2 hl.not_gt
  | writeNoByte hw hv hi hb => exact absurd (hs.hostSrc_index hw hi) (List.getElem?_eq_none_iff.1 hb).not_gt
  | readUnwritten => simp
  | readByte => rwa [afterByte_fault]
  | _ => exact hnone

/-! ## The order of a PUT and a removal (R206) -/

/-- The state with the write side of `p`, which PUT writes, and the history `h`. -/
abbrev State.withWriteSide (s p : State) (h : List Event) : State :=
  { s with mem := p.mem, head := p.head, ovrCnt := p.ovrCnt, ghostH := p.ghostH, history := h }

/-- `t` has everything PUT reads under LAGGED as `s` has it. -/
structure SameWriteSide (s t : State) : Prop where
  cfg : t.cfg = s.cfg := by rfl
  mem : t.mem = s.mem := by rfl
  head : t.head = s.head := by rfl
  tailSync : t.tailSync = s.tailSync := by rfl
  ovrCnt : t.ovrCnt = s.ovrCnt := by rfl
  ghostH : t.ghostH = s.ghostH := by rfl

/-- `u` is `g` with a PUT in it: the write side is that of `p`, and the PUT's event `e` stands among the events. -/
def WithPut (e : Event) (p g u : State) : Prop :=
  ∃ h : List Event, h.Perm (g.history ++ [e]) ∧ u = g.withWriteSide p h

/-- Events logged after `e` are as well logged before it. -/
theorem append_perm_append_last {h l : List Event} (hp : h.Perm (l ++ [e])) (es : List Event) :
    (h ++ es).Perm (l ++ es ++ [e]) := by
  refine (hp.append_right es).trans ?_
  rw [List.append_assoc, List.append_assoc]
  exact List.perm_append_comm.append_left l

namespace WithPut

theorem record (k : WithPut e p g u) (a : Event) : WithPut e p (record a g) (record a u) := by
  obtain ⟨h, hp, rfl⟩ := k
  exact ⟨_, append_perm_append_last hp [a], rfl⟩

theorem respond (k : WithPut e p g u) (st : Status) (v : Cnt) : WithPut e p (respond st v g) (respond st v u) := by
  obtain ⟨h, hp, rfl⟩ := k
  exact ⟨_, append_perm_append_last hp _, rfl⟩

theorem raiseFault (k : WithPut e p g u) (f : Fault) : WithPut e p (raiseFault f g) (raiseFault f u) := by
  obtain ⟨h, hp, rfl⟩ := k
  exact ⟨_, append_perm_append_last hp _, rfl⟩

theorem finishRead (k : WithPut e p g u) (r : StopReason) : WithPut e p (finishRead r g) (finishRead r u) := by
  obtain ⟨h, hp, rfl⟩ := k
  exact ⟨_, append_perm_append_last (append_perm_append_last hp _) _, rfl⟩

theorem removed (k : WithPut e p g u) : WithPut e p g.removed u.removed := by
  obtain ⟨h, hp, rfl⟩ := k
  exact ⟨h, hp, rfl⟩

theorem taken (k : WithPut e p g u) (b : Byte) : WithPut e p (g.taken b) (u.taken b) := by
  obtain ⟨h, hp, rfl⟩ := k
  exact ⟨_, append_perm_append_last hp _, rfl⟩

theorem afterByte (k : WithPut e p g u) (b : Byte) : WithPut e p (afterByte b g) (afterByte b u) := by
  have hcount : u.rdCnt = g.rdCnt ∧ u.rdMax = g.rdMax := by
    obtain ⟨h, -, rfl⟩ := k
    exact ⟨rfl, rfl⟩
  unfold Machine.afterByte
  rw [hcount.1, hcount.2]
  split_ifs
  · exact k.finishRead .cr
  · exact k.finishRead .max
  · exact k

theorem emptyR_eq (hl : s.cfg.syncModel = .lagged) (k : WithPut e p s u) : emptyR u = emptyR s := by
  obtain ⟨h, -, rfl⟩ := k
  simp [emptyR, headView, hl]

/-- A GET before and after a PUT that leaves the byte at `tail` alone. -/
theorem exec_get (hl : s.cfg.syncModel = .lagged) (k : WithPut e p s u)
    (hr : emptyR s = false → Memory.read u.mem u.tail = Memory.read s.mem s.tail) :
    ∃ g v, exec .get s = .next g ∧ exec .get u = .next v ∧ WithPut e p g v ∧ SameWriteSide s g := by
  have hu := k.emptyR_eq hl
  cases he : emptyR s with
  | true =>
    exact ⟨_, _, exec_get_of_empty he, exec_get_of_empty (hu.trans he), (k.record _).respond _ _, {}⟩
  | false =>
    cases hm : Memory.read s.mem s.tail with
    | none =>
      exact ⟨_, _, exec_get_of_unwritten he hm, exec_get_of_unwritten (hu.trans he) ((hr he).trans hm),
        k.raiseFault _, {}⟩
    | some b =>
      exact ⟨_, _, exec_get_of_byte he hm, exec_get_of_byte (hu.trans he) ((hr he).trans hm),
        (k.removed.record _).respond _ _, {}⟩

/-- A READ step before and after a PUT that leaves the byte at `tail` alone. -/
theorem readStep (hl : s.cfg.syncModel = .lagged) (k : WithPut e p s u)
    (hr : emptyR s = false → Memory.read u.mem u.tail = Memory.read s.mem s.tail) :
    WithPut e p (readStep s) (readStep u) := by
  have hu := k.emptyR_eq hl
  have hout : u.rdCnt = s.rdCnt ∧ u.hostOut = s.hostOut := by
    obtain ⟨h, -, rfl⟩ := k
    exact ⟨rfl, rfl⟩
  cases he : emptyR s with
  | true =>
    rw [readStep_of_empty he, readStep_of_empty (hu.trans he)]
    exact k.finishRead _
  | false =>
    cases hm : Memory.read s.mem s.tail with
    | none =>
      rw [readStep_of_unwritten he hm, readStep_of_unwritten (hu.trans he) ((hr he).trans hm)]
      exact k.raiseFault _
    | some b =>
      obtain hroom | hroom := Nat.lt_or_ge s.rdCnt.toNat s.hostOut.length
      · rw [readStep_of_byte he hm hroom,
          readStep_of_byte (hu.trans he) ((hr he).trans hm) (by rwa [hout.1, hout.2])]
        exact (k.taken b).afterByte b
      · rw [readStep_of_noRoom he hm hroom,
          readStep_of_noRoom (hu.trans he) ((hr he).trans hm) (by rwa [hout.1, hout.2])]
        exact k.raiseFault _

end WithPut

/-- A READ step writes nothing that PUT reads under LAGGED. -/
theorem readStep_sameWriteSide (s : State) : SameWriteSide s (readStep s) := by
  unfold readStep
  obtain ⟨h, -⟩ | ⟨h, -⟩ | ⟨b, h, -⟩ := removeByte_cases s <;> rw [h]
  · exact {}
  · exact {}
  · obtain ⟨ha, -⟩ | ⟨ha, -⟩ := appendOut_cases (crToLf b) s.removed <;>
      simp only [State.removed] at ha <;> simp only [ha]
    · exact {}
    · rw [afterByte_frame]
      exact {}

/-- Under LAGGED a PUT does to every state with the same write side what it does to this one, and leaves the byte at
`tail` alone where the read side sees one. -/
theorem exec_put_withWriteSide (ho : PointerOrder s) (hl : s.cfg.syncModel = .lagged) (b : Byte) :
    ∃ e p, exec (.put b) s = .next p ∧ WithPut e p s p ∧
      (emptyR s = false → Memory.read p.mem p.tail = Memory.read s.mem s.tail) ∧
      ∀ g, SameWriteSide s g → exec (.put b) g = .next (g.withWriteSide p (g.history ++ [e])) := by
  have hfull : ∀ g, SameWriteSide s g → fullW g = fullW s := fun g hg => by
    simp [fullW, tailView, hg.cfg, hg.head, hg.tailSync, hl]
  cases hf : fullW s with
  | true =>
    refine ⟨_, _, exec_put_of_full hf b, ⟨_, .rfl, rfl⟩, fun _ => rfl, fun g hg => ?_⟩
    rw [exec_put_of_full ((hfull g hg).trans hf)]
    simp [record, hg.cfg, hg.mem, hg.head, hg.ovrCnt, hg.ghostH]
  | false =>
    refine ⟨_, _, exec_put_of_room hf b, ⟨_, .rfl, rfl⟩,
      fun he => read_write_other s.mem b (tail_ne_head ho he), fun g hg => ?_⟩
    rw [exec_put_of_room ((hfull g hg).trans hf)]
    simp [record, hg.cfg, hg.mem, hg.head, hg.ovrCnt, hg.ghostH]

/-- With the PUT among the events or at their end, the state is the same but for their order. -/
theorem WithPut.eq_up_to_history (k : WithPut e p g u) :
    u = { g.withWriteSide p (g.history ++ [e]) with history := u.history } ∧
      u.history.Perm (g.withWriteSide p (g.history ++ [e])).history := by
  obtain ⟨h, hp, rfl⟩ := k
  exact ⟨rfl, hp⟩

/-- Settles O51: the removal does the same before and after the PUT, and the PUT before and after the removal. -/
theorem putAndRemovalCommuteUnderLag : Obligations.PutAndRemovalCommuteUnderLag := by
  intro s b ho hl
  obtain ⟨e, p, hput, hp, hr, hafter⟩ := exec_put_withWriteSide ho hl b
  obtain ⟨g, pg, hget, hgetp, hpg, hg⟩ := hp.exec_get hl hr
  exact ⟨⟨p, g, pg, _, hput, hgetp, hget, hafter g hg, hpg.eq_up_to_history⟩,
    ⟨p, _, hput, hafter _ (readStep_sameWriteSide s), (hp.readStep hl hr).eq_up_to_history⟩⟩

end Sys2Proof.Machine

/-! SUPPORT. Proofs about reset and hazards (70_reset_and_hazards.md): the invariants at reset, the host's buffers in use, and
the end of a run. -/

namespace Sys2Proof.Machine

variable {s t : State} {m : Move}

/-! ## Reset (R220) -/

/-- Nothing has been put and nothing recorded at reset. -/
theorem fifoOrder_resetFor (c : Config) : FifoOrder (State.resetFor c) where
  puts := rfl
  removed := rfl
  stored _ _ hk := absurd hk (Nat.not_lt_zero _)

/-- Settles O34: the pointers and counters are 0, RBMEM and the logs are empty, and the sequencer is IDLE. -/
theorem invariantsHoldAtReset : Obligations.InvariantsHoldAtReset := fun c hc =>
  ⟨pointerOrder_of_zero hc, fifoOrder_resetFor c, memoryOk_of_nil rfl,
    sequencerOk_of_idle rfl ⟨rfl, rfl, rfl, rfl, rfl⟩, readLogOk_of_nil rfl nofun, writeLogOk_of_ne_write nofun,
    ⟨rfl, rfl⟩, fun _ hw => absurd hw List.not_mem_nil, fun _ => rfl⟩

/-! ## The host's buffers in use (R231) -/

/-- Only the two supplies change a buffer, and an operation in progress on the buffer excludes its supply (R197). -/
theorem StepCase.host_buffers_in_use (hm : ofBlock m = false) (h : StepCase s m t) :
    (s.cseq = .read → t.hostOut = s.hostOut) ∧ (s.cseq = .write → t.hostSrc = s.hostSrc) := by
  cases h with
  | supplyOut buffer hne => exact ⟨fun hr => absurd hr hne, fun _ => rfl⟩
  | supplySrc buffer hne => exact ⟨fun _ => rfl, fun hw => absurd hw hne⟩
  | pass | rxEn | receive | submit => exact ⟨fun _ => rfl, fun _ => rfl⟩
  | _ => cases hm

/-- Settles O29: the host's cases of `StepCase`. -/
theorem hostLeavesBuffersInUseAlone : Obligations.HostLeavesBuffersInUseAlone :=
  fun _ _ _ hm h => (perform_cases h).host_buffers_in_use hm

/-! ## The end of a run (R237) -/

theorem ended_iff :
    ended s = true ↔ s.fault = none ∧ s.cseq = .idle ∧ s.txValid = false ∧ s.cmdq = [] ∧
      (s.rxq = [] ∨ s.rxEn = false) ∧ settled s = true := by
  simp [ended, and_assoc]

/-- No move of the block or of TX is enabled exactly where none of their agents has a step. -/
theorem no_block_move_iff :
    (∀ m, ofBlock m = true → canStep m s = false) ↔ ∀ a, a ≠ .host → ¬ agentCanStep a s := by
  constructor
  · rintro h a ha ⟨m, rfl, hc⟩
    exact Bool.false_ne_true ((h m (bne_iff_ne.2 ha)).symm.trans hc)
  · exact fun h m hm => Bool.eq_false_iff.2 fun hc => h _ (bne_iff_ne.1 hm) ⟨m, rfl, hc⟩

theorem agentCanStep_producer_iff : agentCanStep .producer s ↔ s.fault = none ∧ s.rxEn = true ∧ s.rxq ≠ [] := by
  refine ⟨?_, fun h => ⟨.produce, rfl, canStep_produce_iff.2 h⟩⟩
  rintro ⟨m, ha, hc⟩
  cases m with
  | produce => exact canStep_produce_iff.1 hc
  | _ => cases ha

theorem agentCanStep_tx_iff : agentCanStep .tx s ↔ s.fault = none ∧ s.txValid = true := by
  refine ⟨?_, fun h => ⟨.accept, rfl, canStep_accept_iff.2 h⟩⟩
  rintro ⟨m, ha, hc⟩
  cases m with
  | accept => exact canStep_accept_iff.1 hc
  | _ => cases ha

theorem agentCanStep_consumer_iff :
    agentCanStep .consumer s ↔ canStep .command s = true ∨ canStep .seqStep s = true := by
  constructor
  · rintro ⟨m, ha, hc⟩
    cases m with
    | command => exact .inl hc
    | seqStep => exact .inr hc
    | _ => cases ha
  · rintro (hc | hc)
    · exact ⟨.command, rfl, hc⟩
    · exact ⟨.seqStep, rfl, hc⟩

/-- With no byte offered, the consumer has a step unless it is IDLE with no command to take (R96, R142, R163). -/
theorem consumer_stuck_iff (hf : s.fault = none) (hv : s.txValid = false) :
    ¬ agentCanStep .consumer s ↔ s.cseq = .idle ∧ s.cmdq = [] := by
  rw [agentCanStep_consumer_iff, canStep_command_iff]
  cases hq : s.cseq <;> simp [canStep, canSeqStep, hf, hv, hq]

/-- A state is settled exactly where neither synchroniser has a step (R110, R111). -/
theorem settled_iff_synchronisers_stuck (ho : PointerOrder s) (hf : s.fault = none) :
    settled s = true ↔ ¬ agentCanStep .syncW2R s ∧ ¬ agentCanStep .syncR2W s := by
  rw [w2r_canStep_iff ho hf, r2w_canStep_iff ho hf, not_lt, not_lt]
  constructor
  · intro hs
    obtain ⟨hHs, hTs⟩ := settled_views ho hs
    exact ⟨hHs.ge, hTs.ge⟩
  · rintro ⟨hHs, hTs⟩
    exact settled_of_views ho (le_antisymm ho.hsH hHs) (le_antisymm ho.tsT hTs)

/-- Settles O57: agent by agent, the condition of R237 that leaves it no step. -/
theorem endedMeansNoAgentCanStep : Obligations.EndedMeansNoAgentCanStep := by
  intro s ho
  rw [ended_iff, no_block_move_iff]
  refine and_congr_right fun hf => ?_
  have hprod : ¬ agentCanStep .producer s ↔ s.rxq = [] ∨ s.rxEn = false := by
    simp [agentCanStep_producer_iff, hf, imp_iff_not_or, or_comm]
  have htx : ¬ agentCanStep .tx s ↔ s.txValid = false := by
    simp [agentCanStep_tx_iff, hf]
  have hsync := settled_iff_synchronisers_stuck ho hf
  constructor
  · rintro ⟨hidle, hv, hcmd, hrx, hs⟩ a ha
    cases a with
    | producer => exact hprod.2 hrx
    | consumer => exact (consumer_stuck_iff hf hv).2 ⟨hidle, hcmd⟩
    | syncW2R => exact (hsync.1 hs).1
    | syncR2W => exact (hsync.1 hs).2
    | tx => exact htx.2 hv
    | host => exact absurd rfl ha
  · intro h
    have hv := htx.1 (h .tx nofun)
    obtain ⟨hidle, hcmd⟩ := (consumer_stuck_iff hf hv).1 (h .consumer nofun)
    exact ⟨hidle, hv, hcmd, hprod.1 (h .producer nofun), hsync.2 ⟨h .syncW2R nofun, h .syncR2W nofun⟩⟩

end Sys2Proof.Machine
